-- ==== Sys2Proof/Word.lean ====
section
/-! DEFINITION. The word types of the block: bytes, 24-bit counters and host-port addresses. -/

namespace Sys2Proof

/-- One byte (00_scope R10: each host-port location holds 8 bits). -/
abbrev Byte := BitVec 8

/-- A 24-bit restart or message counter (00_scope R8, `CTR_BYTES` = 3). -/
abbrev Ctr := BitVec 24

/-- A host-port address: 10 bits, 0x000 to 0x3FF (20_memory R80). -/
abbrev HostAddr := BitVec 10

end Sys2Proof
end

