-- ==== Sys2Proof/Config.lean ====
section
/-! DEFINITION. The fixed constants of the spec, the parameters of this hardware, and the free values: what the external
agents answer and what the spec leaves unspecified. -/

namespace Sys2Proof

namespace Config

/-- `P_ASSOC` (00_scope R9): the number of association slots of this hardware. -/
def pAssoc : Nat := 4
/-- `P_MC_SEED_BITS` (R9) of this hardware: the seed of an epoch is always 0. -/
def mcSeedBits : Nat := 0
/-- `P_DIR_FORCE` (R9) of this hardware: the direction bit of an IV is forced. -/
def dirForce : Bool := true

/-- `CRC7_INIT` (R8). -/
def crc7Init : BitVec 7 := 0x7F
/-- `CRC7_POLY_KOOPMAN` 0x5B in its normal form (40_crc7 R160). -/
def crc7Poly : BitVec 7 := 0x37
/-- `CRC7_ZERO_SUBST` (R8). -/
def crc7ZeroSubst : Byte := 0x80
/-- `FL_MIN` (R8). -/
def flMin : Nat := 4
/-- `FL_MAX` (R8). -/
def flMax : Nat := 255
/-- `IDLEN_ENC_MAX` (R8): what the header encoder accepts. -/
def idLenEncMax : Nat := 15
/-- `IDLEN_RX_MAX` (R8): what structural validation accepts. -/
def idLenRxMax : Nat := 8
/-- `BL_MAX` (R8). -/
def blMax : Nat := 251
/-- `TL_INSECURE` (R8). -/
def tlInsecure : Nat := 1
/-- `TL_SECURE` (R8). -/
def tlSecure : Nat := 23
/-- `FMT_AESGCM128` (R8), the secure trailer's last byte. -/
def fmtAesGcm128 : Byte := 0x80
/-- `TAG_BYTES` (R8). -/
def tagBytes : Nat := 16
/-- The size of FB and of PB (R10). -/
def bufBytes : Nat := 256
/-- The largest counter value, 0xFFFFFF. -/
def ctrMax : Ctr := 0xFFFFFF
/-- The size of an NV record (20_memory R94). -/
def nvRecBytes : Nat := 10
/-- The block id, `INFO_ID` (10_state R47). -/
def infoId : Byte := 0x5B
/-- The spec revision, `INFO_REV` (R47). -/
def infoRev : Byte := 0x01

/-- Free value: the seed drawn at an epoch start, by the number of draws before it (93 U6). -/
opaque seedDraw : Nat → Nat
/-- Free function: what the GCM engine computes on encryption, key, IV, associated data and plaintext to ciphertext and tag
(20_memory R99, 93 U3). -/
opaque gcmEnc : BitVec 128 → BitVec 96 → List Byte → List Byte → List Byte × List Byte
/-- Free function: what the GCM engine computes on decryption, key, IV, associated data, ciphertext and tag to a plaintext
or nothing (R99, 93 U3). -/
opaque gcmDec : BitVec 128 → BitVec 96 → List Byte → List Byte → List Byte → Option (List Byte)
/-- Free value: whether an encrypt request fails, by the number of draws before it (R99, 93 U2). -/
opaque gcmEncFails : Nat → Bool
/-- Free value: the NV bytes as provisioned, byte j of record k at 10k + j (20_memory R96 duty 3, 93 U5). -/
opaque nvProvisioned : Nat → Byte
/-- Free value: a buffer byte nothing has written since reset, by the number of resets and the address (10_state R62, 93 U1). -/
opaque unwrittenByte : Nat → Nat → Byte

end Config

/-- Everything the machine takes from outside its state (45_system R327: "the answers of the external agents and the seed
draws, as oracles"), with the two parameters of R9 that do not size the state. The machine runs with `Config.env`; the
rules are written over any `Env`, so that a claim can hold for every agent and every parameter value. -/
structure Env where
  /-- `P_DIR_FORCE`. -/
  dirForce : Bool
  /-- `P_MC_SEED_BITS`. -/
  mcSeedBits : Nat
  seedDraw : Nat → Nat
  gcmEnc : BitVec 128 → BitVec 96 → List Byte → List Byte → List Byte × List Byte
  gcmDec : BitVec 128 → BitVec 96 → List Byte → List Byte → List Byte → Option (List Byte)
  gcmEncFails : Nat → Bool
  nvProvisioned : Nat → Byte
  unwrittenByte : Nat → Nat → Byte

/-- This hardware: the parameters of R9 and the free values above. -/
def Config.env : Env where
  dirForce := Config.dirForce
  mcSeedBits := Config.mcSeedBits
  seedDraw := Config.seedDraw
  gcmEnc := Config.gcmEnc
  gcmDec := Config.gcmDec
  gcmEncFails := Config.gcmEncFails
  nvProvisioned := Config.nvProvisioned
  unwrittenByte := Config.unwrittenByte

end Sys2Proof
end

