-- ==== Sys2Proof/Syntax.lean ====
section
/-! DEFINITION. The commands of the block, one constructor per row of spec/opcode_table.json (30_encoding R121). -/

namespace Sys2Proof

/-- A command. No command has an operand field: the opcode byte "has no register, immediate or mode fields" (30_encoding
R120); every operand is read from the operand registers (R123). -/
inductive Instr where
  /-- 0x00, 45_system R325 -/
  | nop
  /-- 0x01, 40_crc7 R165 -/
  | crcInit
  /-- 0x02, 40_crc7 R166 -/
  | crcUpdate
  /-- 0x03, 40_crc7 R167 -/
  | crcFinal
  /-- 0x10, 41_framecodec R183 -/
  | hdrEncode
  /-- 0x11, 41_framecodec R185 -/
  | validate
  /-- 0x12, 41_framecodec R188 -/
  | decode
  /-- 0x13, 41_framecodec R190 -/
  | crcAppend
  /-- 0x14, 41_framecodec R192 -/
  | crcVerify
  /-- 0x20, 42_nonce R222 -/
  | nonceBuild
  /-- 0x30, 43_replayguard R237 -/
  | assocOpen
  /-- 0x31, 43_replayguard R239 -/
  | assocRekey
  /-- 0x32, 43_replayguard R241 -/
  | txNext
  /-- 0x33, 43_replayguard R244 -/
  | rxCheck
  /-- 0x34, 43_replayguard R246 -/
  | rxCommit
  /-- 0x35, 43_replayguard R248 -/
  | rxRatchet
  /-- 0x40, 44_secureframe R286 -/
  | secEncode
  /-- 0x41, 44_secureframe R294 -/
  | secDecode
  deriving DecidableEq, Repr

end Sys2Proof
end

