-- ==== Sys2Proof/WellFormed.lean ====
section
/-! DEFINITION. Well-formedness: which opcode bytes are commands (30_encoding R124) and which byte lists are NV records
(20_memory R94). A command term has no operand, so every `Instr` is well formed. -/

namespace Sys2Proof

/-- The bytes of 30_encoding R124, "Every byte not in rule R121 is illegal", written from R124's own ranges. -/
def illegalOpcode (b : Byte) : Bool :=
  (0x04 ≤ b && b ≤ 0x0F) || (0x15 ≤ b && b ≤ 0x1F) || (0x21 ≤ b && b ≤ 0x2F) || (0x36 ≤ b && b ≤ 0x3F) || 0x42 ≤ b

/-- A byte that names a command. -/
def legalOpcode (b : Byte) : Bool := !illegalOpcode b

/-- Every command is well formed: the format CMD8 has no operand field to be out of range (R120). -/
def Instr.wf (_ : Instr) : Bool := true

/-- An NV record is exactly 10 bytes (20_memory R93, R94). -/
def nvRecordWf (rec : List Byte) : Bool := rec.length == Config.nvRecBytes

end Sys2Proof
end

