-- ==== Sys2Proof/Decode.lean ====
section
/-! DEFINITION. The decoder of opcode bytes, total and rejecting by name, then the encoder (30_encoding R120 to R124). -/

namespace Sys2Proof

/-- Why bytes are no command. -/
inductive DecodeReject where
  /-- The byte is in none of the rows of R121 (R124). -/
  | illegalOpcode (b : Byte)
  /-- There is no byte. -/
  | noByte
  deriving DecidableEq, Repr

/-- A row of the opcode table: the byte matches when it equals `pattern` on the bits of `mask` (R122). -/
structure OpcodeRow where
  pattern : Byte
  mask : Byte
  instr : Instr
  deriving DecidableEq, Repr

/-- The opcode map of R121, "exact match on all 8 bits (mask 0xFF)" (R122). -/
def opcodeRows : List OpcodeRow :=
  [⟨0x00, 0xFF, .nop⟩, ⟨0x01, 0xFF, .crcInit⟩, ⟨0x02, 0xFF, .crcUpdate⟩, ⟨0x03, 0xFF, .crcFinal⟩,
   ⟨0x10, 0xFF, .hdrEncode⟩, ⟨0x11, 0xFF, .validate⟩, ⟨0x12, 0xFF, .decode⟩, ⟨0x13, 0xFF, .crcAppend⟩,
   ⟨0x14, 0xFF, .crcVerify⟩, ⟨0x20, 0xFF, .nonceBuild⟩] ++
  [⟨0x30, 0xFF, .assocOpen⟩, ⟨0x31, 0xFF, .assocRekey⟩, ⟨0x32, 0xFF, .txNext⟩, ⟨0x33, 0xFF, .rxCheck⟩,
   ⟨0x34, 0xFF, .rxCommit⟩, ⟨0x35, 0xFF, .rxRatchet⟩, ⟨0x40, 0xFF, .secEncode⟩, ⟨0x41, 0xFF, .secDecode⟩]

/-- Whether a row matches a byte. -/
def OpcodeRow.matchesByte (r : OpcodeRow) (b : Byte) : Bool := b &&& r.mask == r.pattern

/-- The command a byte names, or its rejection. -/
def decodeByte (b : Byte) : Except DecodeReject Instr :=
  match opcodeRows.find? (fun r => r.matchesByte b) with
  | some r => .ok r.instr
  | none => .error (.illegalOpcode b)

/-- The first command of a byte sequence and the bytes after it: every command is one byte (R120). -/
def decode : List Byte → Except DecodeReject (Instr × List Byte)
  | [] => .error .noByte
  | b :: rest => (decodeByte b).map (fun i => (i, rest))

/-- The first byte of the table's word `w` of `nbits` bits, bits above `nbits` being zero. -/
def tableByte (nbits w : Nat) : Byte := BitVec.ofNat 8 (w % 2 ^ nbits)

/-- What the decoder reads from an opcode-table word (a command is its first byte, R120). -/
def decodeTableWord (nbits w : Nat) : Option Instr :=
  match decodeByte (tableByte nbits w) with
  | .ok i => some i
  | .error _ => none

/-- The family nibble `FAM`, bits 7:4 of the opcode (R120). -/
def Instr.fam : Instr → BitVec 4
  | .nop | .crcInit | .crcUpdate | .crcFinal => 0
  | .hdrEncode | .validate | .decode | .crcAppend | .crcVerify => 1
  | .nonceBuild => 2
  | .assocOpen | .assocRekey | .txNext | .rxCheck | .rxCommit | .rxRatchet => 3
  | .secEncode | .secDecode => 4

/-- The function nibble `FN`, bits 3:0 of the opcode (R120). -/
def Instr.fn : Instr → BitVec 4
  | .nop => 0 | .crcInit => 1 | .crcUpdate => 2 | .crcFinal => 3
  | .hdrEncode => 0 | .validate => 1 | .decode => 2 | .crcAppend => 3 | .crcVerify => 4
  | .nonceBuild => 0
  | .assocOpen => 0 | .assocRekey => 1 | .txNext => 2 | .rxCheck => 3 | .rxCommit => 4 | .rxRatchet => 5
  | .secEncode => 0 | .secDecode => 1

/-- The opcode byte of a command, `FAM` then `FN` (R120, R121). -/
def encodeByte (i : Instr) : Byte := i.fam ++ i.fn

/-- The bytes of a command. -/
def encode (i : Instr) : List Byte := [encodeByte i]

end Sys2Proof
end

