-- ==== Sys2Proof/Machine/State.lean ====
section
/-! DEFINITION. The state of the block (10_state R30), of the external NV store, and of the schedule of outside events, as
plain data; the reasons a step can stop; the state after reset (10_state R62). -/

namespace Sys2Proof.Machine

/-- Why the machine stops. There is no constructor: "The block never halts, locks up or resets itself on an error; the next
command runs normally" (60_exceptions R335). Nothing raises a fault. -/
inductive Fault where
  deriving DecidableEq, Repr

/-- Why the machine has no meaning for an instruction. -/
inductive Refusal where
  /-- Raised by an arm of `exec` whose command has no meaning yet; safe, since nothing is then said of the command. No arm
  raises it now. -/
  | notModelled (mnemonic : String)
  deriving DecidableEq, Repr

/-- The result codes (30_encoding R127); `ResultCode.toByte` gives their values. -/
inductive ResultCode where
  | ok
  | malformedFrame
  | crcMismatch
  | replayRejected
  | authenticationFailed
  | paddingInvalid
  | counterSpaceExhausted
  | encryptionFailed
  | invalidLength
  | illegalCommand
  | invalidSlot
  | notOpen
  deriving DecidableEq, Repr

/-- The role of a slot: `A_CFG` bit 0 (10_state R52). -/
inductive Role where
  /-- 0: `NODEID` is the peer's ID. -/
  | sink
  /-- 1: `NODEID` is this node's own ID. -/
  | source
  deriving DecidableEq, Repr

/-- The direction folded into a nonce (42_nonce R220). -/
inductive Direction where
  | sending
  | receiving
  deriving DecidableEq, Repr

/-- A request of Core to an external agent, with its arguments by value (20_memory R93, R97). -/
inductive Request where
  | nvRead (k : Nat)
  | nvWrite (k : Nat) (rec : List Byte)
  | gcmEnc (key : BitVec 128) (iv : BitVec 96) (ad pt : List Byte)
  | gcmDec (key : BitVec 128) (iv : BitVec 96) (ad ct tag : List Byte)
  deriving DecidableEq, Repr

/-- The sequencer state `PHASE` (10_state R31, R33): idle, or running opcode `op`, about to take step number `step` of its
rule once the outstanding request `req`, if any, is answered. -/
inductive Phase where
  | idle
  | busy (op : Byte) (step : Nat) (req : Option Request)
  deriving DecidableEq, Repr

/-- The internal staging buffer `STG` (10_state R59). It also latches an agent's answer until Core's next step: an NV record
and a plaintext or ciphertext in `data`, a GCM tag in `tag`, a GCM `Fail` in `failed` (assumption log 8). -/
structure Staging where
  nonce : BitVec 96
  data : List Byte
  tag : List Byte
  failed : Bool
  deriving DecidableEq, Repr

/-- The staging buffer holding nothing. -/
def Staging.empty : Staging := ⟨0, [], [], false⟩

/-- One association slot (10_state R50). -/
structure Slot where
  /-- `KEY`, byte 0 most significant (R51) -/
  key : BitVec 128
  /-- `NODEID[0..7]`, byte 0 most significant (R53) -/
  nodeId : BitVec 64
  role : Role
  isOpen : Bool
  txRc : Ctr
  txMc : Ctr
  txExh : Bool
  rxLav : Bool
  rxLr : Ctr
  rxLm : Ctr
  deriving DecidableEq, Repr

/-- A slot after reset (10_state R62). -/
def Slot.reset : Slot where
  key := 0
  nodeId := 0
  role := .sink
  isOpen := false
  txRc := 0
  txMc := 0
  txExh := false
  rxLav := false
  rxLr := 0
  rxLm := 0

/-- The decoded-field registers `D_*` (10_state R49). -/
structure Decoded where
  fl : Byte
  type : BitVec 7
  sec : Bool
  seq : BitVec 4
  idLen : Byte
  bl : Byte
  tl : Byte
  bodyOff : Byte
  trlOff : Byte
  deriving DecidableEq, Repr

/-- `D_*` after reset (R62). -/
def Decoded.reset : Decoded := ⟨0, 0, false, 0, 0, 0, 0, 0, 0⟩

/-- Memory: address and byte pairs, addresses strictly rising (`Memory.wf`). An address not listed has not been written
(assumption log 16). -/
abbrev Memory := List Host.Cell

/-- What an unlisted address holds: no byte. What reading it gives is a free value, `Config.unwrittenByte` for the buffers
(10_state R62) and `Config.nvProvisioned` for the NV records (20_memory R96 duty 3). -/
def Memory.unlisted : Option Byte := none

/-- The part of the block that the rules of the commands read and write. -/
structure Block where
  /-- `CTRL.IE` (10_state R37) -/
  ie : Bool
  /-- `CTRL.PAD31` (R37) -/
  pad31 : Bool
  /-- `FB_LEN` (R38) -/
  fbLen : BitVec 9
  /-- `PB_LEN` (R39) -/
  pbLen : BitVec 9
  /-- `ARG_TYPE` (R40) -/
  argType : Byte
  /-- `ARG_FLAGS[1:0]`: bit 0 `SEC`, bit 1 `DIR` (R41) -/
  argFlags : BitVec 2
  /-- `ARG_SEQ[3:0]` (R42) -/
  argSeq : BitVec 4
  /-- `ARG_IDLEN` (R43) -/
  argIdLen : Byte
  /-- `ARG_BL` (R43) -/
  argBl : Byte
  /-- `ARG_SLOT` (R44) -/
  argSlot : Byte
  /-- `MAXFL` (R44) -/
  maxFl : Byte
  /-- `ARG_DATA` (R45) -/
  argData : Byte
  /-- `CRC_STATE` (R45) -/
  crcState : BitVec 7
  /-- `CRC_OUT` (R45) -/
  crcOut : Byte
  /-- `ARG_R` (R46) -/
  argR : Ctr
  /-- `ARG_M` (R46) -/
  argM : Ctr
  /-- `ARG_ID[0..14]`, byte 0 most significant (R46) -/
  argId : BitVec 120
  /-- `IV[0..11]`, byte 0 most significant (R48) -/
  iv : BitVec 96
  /-- `D_*` (R49) -/
  dec : Decoded
  /-- The slot file (R50) -/
  slots : Vector Slot Config.pAssoc
  /-- FB at 0x000 to 0x0FF and PB at 0x100 to 0x1FF (R58) -/
  mem : Memory
  /-- `STG` (R59) -/
  stg : Staging
  /-- The model's own: how many free values have been drawn (assumption log 7) -/
  draws : Nat
  /-- The model's own: how many resets there have been (assumption log 7) -/
  boots : Nat
  deriving DecidableEq, Repr

/-- An event of the schedule: which agent moves, and how (45_system R320; assumption log 1). -/
inductive Event where
  /-- The Host reads one byte (20_memory R80). -/
  | read (a : HostAddr)
  /-- The Host writes one byte (R80). -/
  | write (a : HostAddr) (v : Byte)
  /-- Core takes one step of the running command's rule. -/
  | core
  /-- The NV agent answers the outstanding NV request. -/
  | nvAnswer
  /-- The GCM agent answers the outstanding GCM request. -/
  | gcmAnswer
  /-- Core and the agents finish the running command, as one step (R321, R327). -/
  | run
  /-- The reset input is asserted (70_reset_and_hazards R370). If an `NvWrite` is outstanding, `landed` says whether its
  record is already the new one (R380). -/
  | reset (landed : Bool)
  /-- The platform changes an NV record outside the block (43_replayguard R235; 10_state R60). -/
  | provision (k : Nat) (rec : List Byte)
  deriving DecidableEq, Repr

/-- The state of the machine. -/
structure State where
  /-- `PHASE` (10_state R33) -/
  phase : Phase
  /-- `CMD` (R34) -/
  cmd : Byte
  /-- `STATUS.DONE` (R35) -/
  done : Bool
  /-- `STATUS.WERR` (R35) -/
  werr : Bool
  /-- `RESULT` (R36) -/
  result : ResultCode
  /-- `ASSOC_SEL` (R57) -/
  assocSel : Byte
  /-- The registers, slots and buffers the commands work on -/
  blk : Block
  /-- The NV agent's records: byte j of record k at address 10k + j (R60, 20_memory R94) -/
  nv : Memory
  /-- The model's own: the requests the running, or last, command issued (45_system R327; assumption log 11) -/
  requests : List Request
  /-- The model's own: the byte the last host-port read returned (20_memory R80; assumption log 11) -/
  rdata : Byte
  /-- The model's own: the events still to come, oldest first (assumption log 1) -/
  inputs : List Event
  deriving DecidableEq, Repr

/-- The block's registers after reset (10_state R62); the buffers list nothing, so that every byte of them is unspecified. -/
def Block.reset : Block where
  ie := false
  pad31 := true
  fbLen := 0
  pbLen := 0
  argType := 0
  argFlags := 0
  argSeq := 0
  argIdLen := 0
  argBl := 0
  argSlot := 0
  maxFl := 0xFF
  argData := 0
  crcState := Config.crc7Init
  crcOut := 0
  argR := 0
  argM := 0
  argId := 0
  iv := 0
  dec := Decoded.reset
  slots := Vector.replicate Config.pAssoc Slot.reset
  mem := []
  stg := Staging.empty
  draws := 0
  boots := 0

/-- The machine right after reset (10_state R62): idle, no event pending, no NV byte written yet. -/
def State.reset : State where
  phase := .idle
  cmd := 0
  done := false
  werr := false
  result := .ok
  assocSel := 0
  blk := Block.reset
  nv := []
  requests := []
  rdata := 0
  inputs := []

end Sys2Proof.Machine
end

