-- ==== Sys2Proof/Machine/Operands.lean ====
section
/-! DEFINITION. Byte order of multi-byte values (20_memory R84), the operands of the commands (30_encoding R123), and the
comparison of counter pairs (00_scope R13). -/

namespace Sys2Proof.Machine

/-! Byte order: byte 0 is the most significant (R84). -/

/-- Byte `i` of a multi-byte value, counting from the most significant. -/
def getByte {w : Nat} (v : BitVec w) (i : Nat) : Byte := v.extractLsb' (w - 8 * (i + 1)) 8

/-- A multi-byte value with byte `i` replaced. -/
def setByte {w : Nat} (v : BitVec w) (i : Nat) (b : Byte) : BitVec w :=
  (v &&& ~~~((0xFF : Byte).setWidth w <<< (w - 8 * (i + 1)))) ||| (b.setWidth w <<< (w - 8 * (i + 1)))

/-- The bytes `i .. i+n-1` of a multi-byte value. -/
def bytesOf {w : Nat} (v : BitVec w) (i n : Nat) : List Byte := (List.range n).map (fun j => getByte v (i + j))

/-- `bytes24` (00_scope R13). -/
def bytes24 (v : Ctr) : List Byte := [getByte v 0, getByte v 1, getByte v 2]

/-- `be24` (00_scope R13). -/
def be24 (b0 b1 b2 : Byte) : Ctr := b0 ++ b1 ++ b2

/-- Byte `i` of a byte list, 0 past its end (every use is within the list). -/
def byteAt (l : List Byte) (i : Nat) : Byte := l.getD i 0

/-- `be24` of three bytes of a list, from index `i`. -/
def be24At (l : List Byte) (i : Nat) : Ctr := be24 (byteAt l i) (byteAt l (i + 1)) (byteAt l (i + 2))

/-- `(a, b) >lex (c, d)` (00_scope R13). -/
def lexGt (a b c d : Ctr) : Bool := c < a || (a == c && d < b)

/-! Operands (R123). -/

/-- The frame type, `ARG_TYPE[6:0]` (10_state R40). -/
def Block.frameType (b : Block) : BitVec 7 := b.argType.extractLsb' 0 7

/-- The secure flag, `ARG_FLAGS[0]` (10_state R41). -/
def Block.secFlag (b : Block) : Bool := b.argFlags.getLsbD 0

/-- The direction, `ARG_FLAGS[1]`: 1 means `Sending` (10_state R41). -/
def Block.dirFlag (b : Block) : Direction := if b.argFlags.getLsbD 1 then .sending else .receiving

/-- `FBL = min(FB_LEN, 256)` (10_state R38). -/
def Block.fbl (b : Block) : Nat := min b.fbLen.toNat Config.bufBytes

/-- `PBL = min(PB_LEN, 256)` (10_state R39). -/
def Block.pbl (b : Block) : Nat := min b.pbLen.toNat Config.bufBytes

/-- A frame type no frame may have: 0x00 and 0x7F (30_encoding R131). -/
def reservedType (t : BitVec 7) : Bool := t == 0x00 || t == 0x7F

end Sys2Proof.Machine
end

