-- ==== Sys2Proof/Machine/Flags.lean ====
section
/-! DEFINITION. The status flags (10_state R35, R61), the result code values (30_encoding R127) and the interrupt output
(60_exceptions R340). -/

namespace Sys2Proof.Machine

/-- The values of the result codes (30_encoding R127). -/
def ResultCode.toByte : ResultCode → Byte
  | .ok => 0x00
  | .malformedFrame => 0x01
  | .crcMismatch => 0x02
  | .replayRejected => 0x03
  | .authenticationFailed => 0x04
  | .paddingInvalid => 0x05
  | .counterSpaceExhausted => 0x06
  | .encryptionFailed => 0x07
  | .invalidLength => 0x08
  | .illegalCommand => 0x09
  | .invalidSlot => 0x0A
  | .notOpen => 0x0B

/-- `STATUS.BUSY`: 1 while `PHASE` is BUSY (10_state R35). -/
def State.isBusy (s : State) : Bool :=
  match s.phase with
  | .idle => false
  | .busy _ _ _ => true

/-- `STATUS.ERR`: always equal to `RESULT != 0x00` (10_state R35). -/
def State.errBit (s : State) : Bool := s.result.toByte != 0

/-- The `STATUS` byte: `BUSY`, `DONE`, `ERR`, `WERR` at bits 0 to 3, bits 7:4 zero (10_state R35). -/
def State.statusByte (s : State) : Byte :=
  (0 : BitVec 4) ++ BitVec.ofBool s.werr ++ BitVec.ofBool s.errBit ++ BitVec.ofBool s.done ++ BitVec.ofBool s.isBusy

/-- A write of `v` to `STATUS`: the W1C bits written as 1 are cleared, the rest ignored (10_state R35). -/
def State.clearStatus (s : State) (v : Byte) : State :=
  { s with done := s.done && !v.getLsbD 1, werr := s.werr && !v.getLsbD 3 }

/-- The interrupt output `IRQ = STATUS.DONE AND CTRL.IE` (60_exceptions R340). -/
def State.irq (s : State) : Bool := s.done && s.blk.ie

end Sys2Proof.Machine
end

