-- ==== Sys2Proof/Machine/Ops.lean ====
section
/-! DEFINITION. The shared operations: memory and the buffers, slots, the NV records, the answers of the external agents, and
the life of a command: start, its rule's steps, completion, and reset. This block takes no exception (60_exceptions R335,
R343): what an error does is `State.complete` with its code, and there is nothing to return from (R344). -/

namespace Sys2Proof.Machine

/-! Memory -/

/-- The byte an address holds, if it has been written. -/
def Memory.get : Memory → Nat → Option Byte
  | [], _ => Memory.unlisted
  | (a, v) :: m, x => if x = a then some v else if x < a then Memory.unlisted else Memory.get m x

/-- Writes one byte, keeping the addresses rising. -/
def Memory.set : Memory → Nat → Byte → Memory
  | [], x, v => [(x, v)]
  | (a, u) :: m, x, v =>
    if x < a then (x, v) :: (a, u) :: m
    else if x = a then (x, v) :: m
    else (a, u) :: Memory.set m x v

/-- Writes a byte sequence from an address on. -/
def Memory.writeBytes : Memory → Nat → List Byte → Memory
  | m, _, [] => m
  | m, x, v :: vs => Memory.writeBytes (Memory.set m x v) (x + 1) vs

/-- The canonical form: addresses strictly rising. -/
def Memory.wf : Memory → Bool
  | [] => true
  | [_] => true
  | (a, _) :: (a', v') :: m => decide (a < a') && Memory.wf ((a', v') :: m)

/-- Every listed address is below a bound. -/
def Memory.below (bound : Nat) (m : Memory) : Bool := m.all fun c => decide (c.1 < bound)

/-- The host-port address of `PB[0]` (20_memory R82); that of `FB[0]` is 0. -/
def pbBase : Nat := 0x100

/-- The end of the buffers in the host-port space. -/
def bufEnd : Nat := 0x200

/-- Reads the buffer byte at host-port address `a` (below 0x200): what was written there since reset, else a free value
(10_state R62, assumption log 3). -/
def Block.bufByte (e : Env) (b : Block) (a : Nat) : Byte := (b.mem.get a).getD (e.unwrittenByte b.boots a)

/-- `FB[i]`. -/
def Block.fb (e : Env) (b : Block) (i : Nat) : Byte := b.bufByte e i

/-- `PB[i]`. -/
def Block.pb (e : Env) (b : Block) (i : Nat) : Byte := b.bufByte e (pbBase + i)

/-- The `n` bytes of a buffer read through `f` from index `i` on. -/
def bufSlice (f : Nat → Byte) (i n : Nat) : List Byte := (List.range n).map (fun j => f (i + j))

/-- Writes bytes to FB from index `i` on. -/
def Block.writeFb (b : Block) (i : Nat) (l : List Byte) : Block := { b with mem := b.mem.writeBytes i l }

/-- Writes bytes to PB from index 0 on. -/
def Block.writePb (b : Block) (l : List Byte) : Block := { b with mem := b.mem.writeBytes pbBase l }

/-! Slots -/

/-- Slot `k`; every command checks `k < P_ASSOC` before it reads one. -/
def Block.slot (b : Block) (k : Nat) : Slot := (b.slots[k]?).getD Slot.reset

/-- Replaces slot `k`. -/
def Block.setSlot (b : Block) (k : Nat) (sl : Slot) : Block := { b with slots := b.slots.setIfInBounds k sl }

/-! The NV agent (20_memory R93 to R96) -/

/-- `rec(k)`, the record Core builds from a slot (R94). -/
def Slot.record (sl : Slot) : List Byte :=
  bytes24 sl.txRc ++ [if sl.rxLav then 0x01 else 0x00] ++ bytes24 sl.rxLr ++ bytes24 sl.rxLm

/-- The NV agent's record of id `k`: the last one written, else as provisioned (R96 duty 3). -/
def nvRecord (e : Env) (nv : Memory) (k : Nat) : List Byte :=
  (List.range Config.nvRecBytes).map fun j =>
    (nv.get (Config.nvRecBytes * k + j)).getD (e.nvProvisioned (Config.nvRecBytes * k + j))

/-- The NV agent's store with record `k` replaced whole (R96 duty 2). -/
def nvStore (nv : Memory) (k : Nat) (rec : List Byte) : Memory := nv.writeBytes (Config.nvRecBytes * k) rec

/-! The answers of the agents -/

/-- Changes the staging buffer. -/
def State.withStg (s : State) (g : Staging) : State := { s with blk := { s.blk with stg := g } }

/-- What `GcmEnc` answers (20_memory R98, R100 duty 2): the ciphertext and the tag, or nothing for `Fail`, which is drawn
(R99) or follows from wrong lengths (R98). -/
def gcmEncAnswer (e : Env) (draw : Nat) (key : BitVec 128) (iv : BitVec 96) (ad pt : List Byte) :
    Option (List Byte × List Byte) :=
  if e.gcmEncFails draw then none
  else if (e.gcmEnc key iv ad pt).1.length = pt.length ∧ (e.gcmEnc key iv ad pt).2.length = Config.tagBytes then
    some (e.gcmEnc key iv ad pt)
  else none

/-- What `GcmDec` answers (R98): the plaintext, or nothing for `Fail`. -/
def gcmDecAnswer (e : Env) (key : BitVec 128) (iv : BitVec 96) (ad ct tag : List Byte) : Option (List Byte) :=
  match e.gcmDec key iv ad ct tag with
  | some pt => if pt.length = ct.length then some pt else none
  | none => none

/-- The state after an agent has answered a request. An NV write is durable (R93); every other answer is latched in `STG`
(assumption log 8). -/
def answer (e : Env) (s : State) : Request → State
  | .nvRead k => s.withStg { s.blk.stg with data := nvRecord e s.nv k }
  | .nvWrite k rec => { s with nv := nvStore s.nv k rec }
  | .gcmEnc key iv ad pt =>
    let s' : State := { s with blk := { s.blk with draws := s.blk.draws + 1 } }
    match gcmEncAnswer e s.blk.draws key iv ad pt with
    | some (ct, tag) => s'.withStg { s.blk.stg with data := ct, tag := tag, failed := false }
    | none => s'.withStg { s.blk.stg with failed := true }
  | .gcmDec key iv ad ct tag =>
    match gcmDecAnswer e key iv ad ct tag with
    | some pt => s.withStg { s.blk.stg with data := pt, failed := false }
    | none => s.withStg { s.blk.stg with failed := true }

/-! The life of a command (45_system R322, R323, R327) -/

/-- What one Core step ends in. -/
inductive Turn where
  /-- `finish OK` or `raise <Code>` (00_scope R14). -/
  | finish (code : ResultCode) (b : Block)
  /-- The rule goes on with its next step. -/
  | go (b : Block)
  /-- The step issues a request; the next step waits for its answer (R320). -/
  | ask (req : Request) (b : Block)

/-- The rule of a command: its Core steps in order, cut where it waits for an agent (assumption log 13). A rule that has no
step left finishes `OK`. -/
abbrev Rule := List (Block → Turn)

/-- Issues the request if there is one. -/
def Turn.askIf (req : Option Request) (b : Block) : Turn :=
  match req with
  | some q => .ask q b
  | none => .go b

/-- Command start: a write of `v` to `CMD` while IDLE (45_system R322). -/
def State.startCommand (s : State) (v : Byte) : State :=
  { s with cmd := v, done := false, phase := .busy v 0 none, requests := [] }

/-- Command completion (45_system R323). The staging buffer is emptied: nothing later depends on it (10_state R59,
assumption log 8). -/
def State.complete (s : State) (code : ResultCode) (b : Block) : State :=
  { s with result := code, phase := .idle, done := true, blk := { b with stg := Staging.empty } }

/-- Records a request as issued (45_system R327). -/
def State.issue (s : State) (q : Request) (b : Block) : State := { s with blk := b, requests := s.requests ++ [q] }

/-- The rest of a rule as one transformation, every request answered at once (45_system R321, R327). -/
def runSteps (e : Env) : Rule → State → State
  | [], s => s.complete .ok s.blk
  | f :: rest, s =>
    match f s.blk with
    | .finish code b => s.complete code b
    | .go b => runSteps e rest { s with blk := b }
    | .ask q b => runSteps e rest (answer e (s.issue q b) q)

/-- One Core step of a rule, at step number `n` (45_system R320): it completes, moves on, or issues a request. -/
def stepRule (rule : Rule) (op : Byte) (n : Nat) (s : State) : State :=
  match rule[n]? with
  | none => s.complete .ok s.blk
  | some f =>
    match f s.blk with
    | .finish code b => s.complete code b
    | .go b => { s with blk := b, phase := .busy op (n + 1) none }
    | .ask q b => { s.issue q b with phase := .busy op (n + 1) (some q) }

/-- Reset (70_reset_and_hazards R370): every piece of block state takes its reset value; the NV records stay, but an
outstanding `NvWrite` has landed or not (R380). The schedule and the model's own counters go on (assumption logs 7, 10). -/
def State.powerOn (s : State) (landed : Bool) : State :=
  { State.reset with
    nv := match s.phase with
      | .busy _ _ (some (.nvWrite k rec)) => if landed then nvStore s.nv k rec else s.nv
      | _ => s.nv
    inputs := s.inputs
    blk := { Block.reset with draws := s.blk.draws, boots := s.blk.boots + 1 } }

/-! The checks every slot command begins with (45_system R328) -/

/-- `k <- ARG_SLOT ; if k >= P_ASSOC then raise InvalidSlot`. -/
def withSlot (f : Nat → Block → Turn) (b : Block) : Turn :=
  if Config.pAssoc ≤ b.argSlot.toNat then .finish .invalidSlot b else f b.argSlot.toNat b

/-- The same, then `if OPEN[k] = 0 then raise NotOpen`. -/
def withOpenSlot (f : Nat → Block → Turn) (b : Block) : Turn :=
  withSlot (fun k b => if (b.slot k).isOpen then f k b else .finish .notOpen b) b

end Sys2Proof.Machine
end

