-- ==== Sys2Proof/Machine/Crc.lean ====
section
/-! DEFINITION. The CRC7 unit (40_crc7). -/

namespace Sys2Proof.Machine

/-- One bit of the CRC (40_crc7 R161): feedback, shift left, conditional xor with the polynomial. -/
def crc7Bit (c : BitVec 7) (d : Bool) : BitVec 7 :=
  if c.getLsbD 6 ^^ d then (c <<< 1) ^^^ Config.crc7Poly else c <<< 1

/-- `crc7Update` (R161): data bit 7 first. -/
def crc7Update (c : BitVec 7) (d : Byte) : BitVec 7 :=
  [7, 6, 5, 4, 3, 2, 1, 0].foldl (fun c i => crc7Bit c (d.getLsbD i)) c

/-- `crc7Final` (R162). -/
def crc7Final (c : BitVec 7) : Byte := if c = 0 then Config.crc7ZeroSubst else c.setWidth 8

/-- `crc7` of a byte sequence (R163). -/
def crc7 (l : List Byte) : BitVec 7 := l.foldl crc7Update Config.crc7Init

/-- CRC_INIT (R165). -/
def crcInitRule : Rule := [fun b => .finish .ok { b with crcState := Config.crc7Init }]

/-- CRC_UPDATE (R166). -/
def crcUpdateRule : Rule := [fun b => .finish .ok { b with crcState := crc7Update b.crcState b.argData }]

/-- CRC_FINAL (R167). -/
def crcFinalRule : Rule := [fun b => .finish .ok { b with crcOut := crc7Final b.crcState }]

/-- The meaning of CRC_INIT. -/
def execCrcInit (s : State) : Host.Outcome State Fault Refusal := .next (runSteps Config.env crcInitRule s)

/-- The meaning of CRC_UPDATE. -/
def execCrcUpdate (s : State) : Host.Outcome State Fault Refusal := .next (runSteps Config.env crcUpdateRule s)

/-- The meaning of CRC_FINAL. -/
def execCrcFinal (s : State) : Host.Outcome State Fault Refusal := .next (runSteps Config.env crcFinalRule s)

end Sys2Proof.Machine
end

