-- ==== Sys2Proof/Machine/FrameCodec.lean ====
section
/-! DEFINITION. The FrameCodec unit (41_framecodec). A buffer is read through a function of the index. -/

namespace Sys2Proof.Machine

/-! Field accessors (41_framecodec R180) -/

/-- `fl(F) = F[0]`. -/
def frameFl (F : Nat → Byte) : Nat := (F 0).toNat
/-- `type(F) = F[1][6:0]`. -/
def frameTypeOf (F : Nat → Byte) : BitVec 7 := (F 1).extractLsb' 0 7
/-- `sec(F) = F[1][7]`. -/
def frameSec (F : Nat → Byte) : Bool := (F 1).getLsbD 7
/-- `seq(F) = F[2][7:4]`. -/
def frameSeq (F : Nat → Byte) : BitVec 4 := (F 2).extractLsb' 4 4
/-- `il(F) = F[2][3:0]`. -/
def frameIl (F : Nat → Byte) : Nat := ((F 2).extractLsb' 0 4).toNat
/-- `bl(F) = F[3 + il(F)]`. -/
def frameBl (F : Nat → Byte) : Nat := (F (3 + frameIl F)).toNat
/-- `tl(F) = fl(F) - 3 - il(F) - bl(F)`. -/
def frameTl (F : Nat → Byte) : Nat := frameFl F - 3 - frameIl F - frameBl F
/-- `bodyOff = 4 + n` (R187). -/
def frameBodyOff (F : Nat → Byte) : Nat := 4 + frameIl F
/-- `trlOff = 4 + n + b` (R187). -/
def frameTrlOff (F : Nat → Byte) : Nat := 4 + frameIl F + frameBl F

/-- `tlOf` (R181). -/
def tlOf (sec : Bool) : Nat := if sec then Config.tlSecure else Config.tlInsecure

/-- `validateStructure(F, L, maxfl)` (R184), its four steps in order. -/
def validateStructure (F : Nat → Byte) (L maxfl : Nat) : Bool :=
  if L < 1 then false
  else if frameFl F < Config.flMin || maxfl < frameFl F then false
  else if L < frameFl F + 1 then false
  else if reservedType (frameTypeOf F) then false
  else if Config.idLenRxMax < frameIl F || frameFl F - 4 < frameIl F then false
  else if frameFl F - 4 - frameIl F < frameBl F then false
  else if !frameSec F && frameTl F != 1 then false
  else if F (frameFl F) == 0x00 || F (frameFl F) == 0xFF then false
  else true

/-- `decodeFields(F)` (R187), as the `D_*` registers hold it (R188). -/
def decodeFields (F : Nat → Byte) : Decoded where
  fl := BitVec.ofNat 8 (frameFl F)
  type := frameTypeOf F
  sec := frameSec F
  seq := frameSeq F
  idLen := BitVec.ofNat 8 (frameIl F)
  bl := BitVec.ofNat 8 (frameBl F)
  tl := BitVec.ofNat 8 (frameTl F)
  bodyOff := BitVec.ofNat 8 (frameBodyOff F)
  trlOff := BitVec.ofNat 8 (frameTrlOff F)

/-- The bytes of a frame header (R183; the secure one is 44_secureframe R283). -/
def headerBytes (fl : Nat) (sec : Bool) (t : BitVec 7) (q : BitVec 4) (id : List Byte) (bl : Nat) : List Byte :=
  [BitVec.ofNat 8 fl, BitVec.ofBool sec ++ t, q ++ BitVec.ofNat 4 id.length] ++ id ++ [BitVec.ofNat 8 bl]

/-- The structural check of the frame in FB (R185). -/
def Block.fbValid (e : Env) (b : Block) : Bool := validateStructure (b.fb e) b.fbl b.maxFl.toNat

/-- `crc7Final(crc7(FB[0 .. n-1]))`. -/
def Block.fbCrc (e : Env) (b : Block) (n : Nat) : Byte := crc7Final (crc7 (bufSlice (b.fb e) 0 n))

/-- HDR_ENCODE (R183). -/
def hdrEncodeStep (b : Block) : Turn :=
  let t := b.frameType
  let s := b.secFlag
  let n := b.argIdLen.toNat
  let bl := b.argBl.toNat
  let fl := 3 + n + bl + tlOf s
  if Config.idLenEncMax < n then .finish .invalidLength b
  else if Config.blMax < bl then .finish .invalidLength b
  else if reservedType t then .finish .invalidLength b
  else if Config.flMax < fl then .finish .invalidLength b
  else .finish .ok
    { b.writeFb 0 (headerBytes fl s t b.argSeq (bytesOf b.argId 0 n) bl) with fbLen := BitVec.ofNat 9 (4 + n) }

/-- HDR_ENCODE as a rule. -/
def hdrEncodeRule : Rule := [hdrEncodeStep]

/-- VALIDATE (R185). -/
def validateStep (e : Env) (b : Block) : Turn :=
  if b.fbValid e then .finish .ok b else .finish .malformedFrame b

/-- VALIDATE as a rule. -/
def validateRule (e : Env) : Rule := [validateStep e]

/-- DECODE (R188). -/
def decodeStep (e : Env) (b : Block) : Turn :=
  if b.fbValid e then .finish .ok { b with dec := decodeFields (b.fb e) } else .finish .malformedFrame b

/-- DECODE as a rule. -/
def decodeRule (e : Env) : Rule := [decodeStep e]

/-- CRC_APPEND (R190). -/
def crcAppendStep (e : Env) (b : Block) : Turn :=
  if 255 < b.fbl then .finish .invalidLength b
  else .finish .ok { b.writeFb b.fbl [b.fbCrc e b.fbl] with fbLen := BitVec.ofNat 9 (b.fbl + 1) }

/-- CRC_APPEND as a rule. -/
def crcAppendRule (e : Env) : Rule := [crcAppendStep e]

/-- CRC_VERIFY (R192). -/
def crcVerifyStep (e : Env) (b : Block) : Turn :=
  if !b.fbValid e then .finish .malformedFrame b
  else if frameSec (b.fb e) then .finish .malformedFrame b
  else if b.fbCrc e (frameFl (b.fb e)) = b.fb e (frameFl (b.fb e)) then .finish .ok b
  else .finish .crcMismatch b

/-- CRC_VERIFY as a rule. -/
def crcVerifyRule (e : Env) : Rule := [crcVerifyStep e]

/-- The meaning of HDR_ENCODE. -/
def execHdrEncode (s : State) : Host.Outcome State Fault Refusal := .next (runSteps Config.env hdrEncodeRule s)

/-- The meaning of VALIDATE. -/
def execValidate (s : State) : Host.Outcome State Fault Refusal := .next (runSteps Config.env (validateRule Config.env) s)

/-- The meaning of DECODE. -/
def execDecode (s : State) : Host.Outcome State Fault Refusal := .next (runSteps Config.env (decodeRule Config.env) s)

/-- The meaning of CRC_APPEND. -/
def execCrcAppend (s : State) : Host.Outcome State Fault Refusal := .next (runSteps Config.env (crcAppendRule Config.env) s)

/-- The meaning of CRC_VERIFY. -/
def execCrcVerify (s : State) : Host.Outcome State Fault Refusal := .next (runSteps Config.env (crcVerifyRule Config.env) s)

end Sys2Proof.Machine
end

