-- ==== Sys2Proof/Machine/Nonce.lean ====
section
/-! DEFINITION. The NonceAssembler unit (42_nonce). -/

namespace Sys2Proof.Machine

/-- The 6-byte ID part of an IV with its direction (42_nonce R220): when `P_DIR_FORCE`, bit 7 of IV byte 5, the sixth ID byte
in sending order, is 1 for `Sending` and 0 for `Receiving`. Byte 5 is the least significant byte of this 48-bit value
(assumption log 19). -/
def directed (force : Bool) (id6 : BitVec 48) (dir : Direction) : BitVec 48 :=
  if force then id6.extractLsb' 8 40 ++ (BitVec.ofBool (dir == .sending) ++ id6.extractLsb' 0 7 : Byte) else id6

/-- `nonce(id6, r, m, dir)` (R220): the ID part, then `r`, then `m`, each most significant byte first. -/
def nonce (force : Bool) (id6 : BitVec 48) (r m : Ctr) (dir : Direction) : BitVec 96 :=
  directed force id6 dir ++ r ++ m

/-- The first six bytes of a register file of ID bytes. -/
def id6Of {w : Nat} (v : BitVec w) : BitVec 48 := v.extractLsb' (w - 48) 48

/-- NONCE_BUILD (R222). -/
def nonceBuildStep (e : Env) (b : Block) : Turn :=
  .finish .ok { b with iv := nonce e.dirForce (id6Of b.argId) b.argR b.argM b.dirFlag }

/-- NONCE_BUILD as a rule. -/
def nonceBuildRule (e : Env) : Rule := [nonceBuildStep e]

/-- The meaning of NONCE_BUILD. -/
def execNonceBuild (s : State) : Host.Outcome State Fault Refusal := .next (runSteps Config.env (nonceBuildRule Config.env) s)

end Sys2Proof.Machine
end

