-- ==== Sys2Proof/Machine/ReplayGuard.lean ====
section
/-! DEFINITION. The ReplayGuard unit (43_replayguard). -/

namespace Sys2Proof.Machine

/-- `seed()` (43_replayguard R238): a draw below `2^P_MC_SEED_BITS`, 0 when the parameter is 0, with the draw counted. -/
def takeSeed (e : Env) (b : Block) : Ctr × Block :=
  if e.mcSeedBits = 0 then (0, b)
  else (BitVec.ofNat 24 (e.seedDraw b.draws % 2 ^ e.mcSeedBits), { b with draws := b.draws + 1 })

/-- `advance(k)` (R240): the block after it, and the `NvWrite` of a roll-over if there is one. -/
def advance (e : Env) (k : Nat) (b : Block) : Block × Option Request :=
  let sl := b.slot k
  if sl.txMc < Config.ctrMax then (b.setSlot k { sl with txMc := sl.txMc + 1 }, none)
  else if sl.txRc < Config.ctrMax then
    let sl' := { sl with txRc := sl.txRc + 1, txMc := (takeSeed e b).1 }
    ((takeSeed e b).2.setSlot k sl', some (.nvWrite k sl'.record))
  else (b.setSlot k { sl with txExh := true }, none)

/-- `fresh(k, r, m)` (R243). -/
def Slot.fresh (sl : Slot) (r m : Ctr) : Bool := !sl.rxLav || lexGt r m sl.rxLr sl.rxLm

/-- The slot with the pair recorded, the write of `commit` (R245) and of RX_RATCHET (R248). -/
def Slot.recordPair (sl : Slot) (r m : Ctr) : Slot := { sl with rxLr := r, rxLm := m, rxLav := true }

/-- `commit(k, r, m)` (R245): records the pair and issues its `NvWrite`. -/
def commitTurn (k : Nat) (r m : Ctr) (b : Block) : Turn :=
  .ask (.nvWrite k ((b.slot k).recordPair r m).record) (b.setSlot k ((b.slot k).recordPair r m))

/-! ASSOC_OPEN (R237) -/

/-- Up to the `NvRead`. -/
def openRead : Block → Turn := withSlot fun k b => .ask (.nvRead k) b

/-- Loads the record just read and starts an epoch, up to the `NvWrite`; an exhausted record opens for receiving only. -/
def openLoad (e : Env) (b : Block) : Turn :=
  let k := b.argSlot.toNat
  let bytes := b.stg.data
  let rc := be24At bytes 0
  let sl := { b.slot k with rxLav := byteAt bytes 3 != 0x00, rxLr := be24At bytes 4, rxLm := be24At bytes 7 }
  if rc = Config.ctrMax then
    .finish .counterSpaceExhausted
      (b.setSlot k { sl with txRc := Config.ctrMax, txMc := Config.ctrMax, txExh := true, isOpen := true })
  else
    let sl' := { sl with txRc := rc + 1, txMc := (takeSeed e b).1, txExh := false }
    .ask (.nvWrite k sl'.record) ((takeSeed e b).2.setSlot k sl')

/-- `OPEN[k] <- 1 ; finish OK`, after the `NvWrite` of ASSOC_OPEN and of ASSOC_REKEY. -/
def openDone (b : Block) : Turn :=
  .finish .ok (b.setSlot b.argSlot.toNat { b.slot b.argSlot.toNat with isOpen := true })

/-- ASSOC_OPEN as a rule. -/
def assocOpenRule (e : Env) : Rule := [openRead, openLoad e, openDone]

/-! ASSOC_REKEY (R239) -/

/-- Starts the counters afresh, up to the `NvWrite`. -/
def rekeyStart (e : Env) : Block → Turn := withSlot fun k b =>
  let sl' := { b.slot k with
    rxLav := false, rxLr := 0, rxLm := 0, txRc := 1, txMc := (takeSeed e b).1, txExh := false }
  .ask (.nvWrite k sl'.record) ((takeSeed e b).2.setSlot k sl')

/-- ASSOC_REKEY as a rule. -/
def assocRekeyRule (e : Env) : Rule := [rekeyStart e, openDone]

/-! TX_NEXT (R241) -/

/-- Hands out the pair and advances; a roll-over waits for its `NvWrite`. -/
def txNextStep (e : Env) : Block → Turn := withOpenSlot fun k b =>
  if (b.slot k).txExh then .finish .counterSpaceExhausted b
  else
    let b' := { b with argR := (b.slot k).txRc, argM := (b.slot k).txMc }
    Turn.askIf (advance e k b').2 (advance e k b').1

/-- TX_NEXT as a rule. -/
def txNextRule (e : Env) : Rule := [txNextStep e]

/-! RX_CHECK, RX_COMMIT, RX_RATCHET (R244, R246, R248) -/

/-- RX_CHECK (R244). -/
def rxCheckStep : Block → Turn := withOpenSlot fun k b =>
  if (b.slot k).fresh b.argR b.argM then .finish .ok b else .finish .replayRejected b

/-- RX_CHECK as a rule. -/
def rxCheckRule : Rule := [rxCheckStep]

/-- RX_COMMIT (R246), up to the `NvWrite`. -/
def rxCommitStep : Block → Turn := withOpenSlot fun k b =>
  if (b.slot k).fresh b.argR b.argM then commitTurn k b.argR b.argM b else .finish .replayRejected b

/-- RX_COMMIT as a rule. -/
def rxCommitRule : Rule := [rxCommitStep]

/-- RX_RATCHET (R248), up to the `NvWrite` if the record changes. -/
def rxRatchetStep : Block → Turn := withOpenSlot fun k b =>
  if (b.slot k).fresh b.argR Config.ctrMax then commitTurn k b.argR Config.ctrMax b else .finish .ok b

/-- RX_RATCHET as a rule. -/
def rxRatchetRule : Rule := [rxRatchetStep]

/-- The meaning of ASSOC_OPEN. -/
def execAssocOpen (s : State) : Host.Outcome State Fault Refusal := .next (runSteps Config.env (assocOpenRule Config.env) s)

/-- The meaning of ASSOC_REKEY. -/
def execAssocRekey (s : State) : Host.Outcome State Fault Refusal := .next (runSteps Config.env (assocRekeyRule Config.env) s)

/-- The meaning of TX_NEXT. -/
def execTxNext (s : State) : Host.Outcome State Fault Refusal := .next (runSteps Config.env (txNextRule Config.env) s)

/-- The meaning of RX_CHECK. -/
def execRxCheck (s : State) : Host.Outcome State Fault Refusal := .next (runSteps Config.env rxCheckRule s)

/-- The meaning of RX_COMMIT. -/
def execRxCommit (s : State) : Host.Outcome State Fault Refusal := .next (runSteps Config.env rxCommitRule s)

/-- The meaning of RX_RATCHET. -/
def execRxRatchet (s : State) : Host.Outcome State Fault Refusal := .next (runSteps Config.env rxRatchetRule s)

end Sys2Proof.Machine
end

