-- ==== Sys2Proof/Machine/SecureFrame.lean ====
section
/-! DEFINITION. The SecureFrameCodec unit (44_secureframe). -/

namespace Sys2Proof.Machine

/-! Padding (44_secureframe R281, R282) -/

/-- The content length of a body of `L` bytes: the least `c >= max(L, m)` with `c mod 16 = 15`, `m` being 31 or 15 (R281). -/
def contentLength (L : Nat) (pad31 : Bool) : Nat := 16 * (max L (if pad31 then 31 else 15) / 16) + 15

/-- The pad count `P = C - L` (R281). -/
def padCount (L : Nat) (pad31 : Bool) : Nat := contentLength L pad31 - L

/-- `pad(body, pad31)` (R281). -/
def pad (body : List Byte) (pad31 : Bool) : List Byte :=
  body ++ List.replicate (padCount body.length pad31) 0x00 ++ [BitVec.ofNat 8 (padCount body.length pad31)]

/-- `unpad(pt)` (R282); `none` is `PaddingInvalid`. -/
def unpad (pt : List Byte) : Option (List Byte) :=
  let p := byteAt pt (pt.length - 1)
  if pt.length = 0 then none
  else if p.extractLsb' 5 3 ≠ 0 then none
  else if pt.length < p.toNat + 1 then none
  else some (pt.take (pt.length - 1 - p.toNat))

/-! Directions and the secure header -/

/-- The direction a slot sends with (42_nonce R224, 44_secureframe R286). -/
def Role.sendDir : Role → Direction
  | .source => .sending
  | .sink => .receiving

/-- The direction the slot's peer sends with (R224, R291). -/
def Role.receiveDir : Role → Direction
  | .source => .receiving
  | .sink => .sending

/-- The restart counter in a nonce, IV bytes 6 to 8 (30_encoding R138). -/
def nonceR (iv : BitVec 96) : Ctr := iv.extractLsb' 24 24

/-- The message counter in a nonce, IV bytes 9 to 11 (R138). -/
def nonceM (iv : BitVec 96) : Ctr := iv.extractLsb' 0 24

/-- The length byte of a secure frame, `3 + n + BL + 23` (R284). -/
def secureFl (n bl : Nat) : Nat := 3 + n + bl + Config.tlSecure

/-- The header of the frame SEC_ENCODE builds (R283, R286): its sequence number is `M[3:0]`. -/
def Block.secHeader (b : Block) (k : Nat) (m : Ctr) (bl : Nat) : List Byte :=
  headerBytes (secureFl b.argIdLen.toNat bl) true b.frameType (m.extractLsb' 0 4)
    (bytesOf (b.slot k).nodeId 0 b.argIdLen.toNat) bl

/-- The plaintext body in PB, padded (R286). -/
def Block.paddedBody (e : Env) (b : Block) : List Byte := pad (bufSlice (b.pb e) 0 b.pbl) b.pad31

/-! SEC_ENCODE (R286) -/

/-- The checks of R284, in order: `InvalidLength` if any holds. -/
def secEncodeTooLong (b : Block) (bl : Nat) : Bool :=
  if Config.idLenRxMax < b.argIdLen.toNat then true
  else if reservedType b.frameType then true
  else if Config.blMax < bl then true
  else decide (Config.flMax < secureFl b.argIdLen.toNat bl)

/-- The nonce SEC_ENCODE uses: `NODEID[k][0..5]`, the slot's next pair, the direction of its role (R286). -/
def sendNonce (e : Env) (sl : Slot) : BitVec 96 :=
  nonce e.dirForce (id6Of sl.nodeId) sl.txRc sl.txMc sl.role.sendDir

/-- The checks, the nonce and the padded body into `STG`, and `advance`; a roll-over waits for its `NvWrite`. -/
def secEncodeStart (e : Env) : Block → Turn := withOpenSlot fun k b =>
  if secEncodeTooLong b (b.paddedBody e).length then .finish .invalidLength b
  else if (b.slot k).txExh then .finish .counterSpaceExhausted b
  else
    let b' := { b with stg := ⟨sendNonce e (b.slot k), b.paddedBody e, [], false⟩ }
    Turn.askIf (advance e k b').2 (advance e k b').1

/-- The `GcmEnc` request, with the header as associated data (R283). -/
def secEncodeSeal (b : Block) : Turn :=
  let k := b.argSlot.toNat
  .ask (.gcmEnc (b.slot k).key b.stg.nonce (b.secHeader k (nonceM b.stg.nonce) b.stg.data.length) b.stg.data) b

/-- The frame into FB; or `EncryptionFailed` with `FB_LEN <- 0` (R285). -/
def secEncodeFinish (b : Block) : Turn :=
  let n := b.argIdLen.toNat
  let ct := b.stg.data
  let m := nonceM b.stg.nonce
  if b.stg.failed then .finish .encryptionFailed { b with fbLen := 0 }
  else .finish .ok
    { b.writeFb 0 (b.secHeader b.argSlot.toNat m ct.length ++ ct ++ bytes24 (nonceR b.stg.nonce) ++ bytes24 m
        ++ b.stg.tag ++ [Config.fmtAesGcm128]) with
      fbLen := BitVec.ofNat 9 (secureFl n ct.length + 1) }

/-- SEC_ENCODE as a rule. -/
def secEncodeRule (e : Env) : Rule := [secEncodeStart e, secEncodeSeal, secEncodeFinish]

/-! SEC_DECODE (R290 to R294) -/

/-- `R` of the trailer (R290). -/
def trailerR (F : Nat → Byte) : Ctr := be24 (F (frameTrlOff F)) (F (frameTrlOff F + 1)) (F (frameTrlOff F + 2))

/-- `M` of the trailer (R290). -/
def trailerM (F : Nat → Byte) : Ctr := be24 (F (frameTrlOff F + 3)) (F (frameTrlOff F + 4)) (F (frameTrlOff F + 5))

/-- The tag of the trailer (R290). -/
def trailerTag (F : Nat → Byte) : List Byte := bufSlice F (frameTrlOff F + 6) Config.tagBytes

/-- One byte of the ID part of SEC_DECODE's IV: from the header below `n`, else from `NODEID` (R291). -/
def id6Byte (F : Nat → Byte) (nodeId : BitVec 64) (j : Nat) : Byte :=
  if j < frameIl F then F (3 + j) else getByte nodeId j

/-- The ID part of SEC_DECODE's IV (R291). -/
def receiveId6 (F : Nat → Byte) (nodeId : BitVec 64) : BitVec 48 :=
  id6Byte F nodeId 0 ++ id6Byte F nodeId 1 ++ id6Byte F nodeId 2 ++ id6Byte F nodeId 3 ++ id6Byte F nodeId 4
    ++ id6Byte F nodeId 5

/-- The nonce SEC_DECODE uses (R291, R294). -/
def receiveNonce (e : Env) (sl : Slot) (F : Nat → Byte) : BitVec 96 :=
  nonce e.dirForce (receiveId6 F sl.nodeId) (trailerR F) (trailerM F) sl.role.receiveDir

/-- Whether a validated frame is a secure AES-GCM/128 frame (R294). -/
def isSecureFrame (F : Nat → Byte) : Bool :=
  frameSec F && frameTl F == Config.tlSecure && F (frameFl F) == Config.fmtAesGcm128

/-- The checks, the nonce into `STG`, and the `GcmDec` request. -/
def secDecodeStart (e : Env) : Block → Turn := withOpenSlot fun k b =>
  let F := b.fb e
  let iv := receiveNonce e (b.slot k) F
  if !b.fbValid e then .finish .malformedFrame b
  else if !isSecureFrame F then .finish .malformedFrame b
  else if !(b.slot k).fresh (trailerR F) (trailerM F) then .finish .replayRejected b
  else
    .ask (.gcmDec (b.slot k).key iv (bufSlice F 0 (4 + frameIl F)) (bufSlice F (frameBodyOff F) (frameBl F)) (trailerTag F))
      { b with stg := ⟨iv, [], [], false⟩ }

/-- Authentication, unpadding, then the commit with its `NvWrite`; the body waits in `STG` (10_state R59). -/
def secDecodeCommit (e : Env) (b : Block) : Turn :=
  if b.stg.failed then .finish .authenticationFailed b
  else match unpad b.stg.data with
    | none => .finish .paddingInvalid b
    | some body =>
      commitTurn b.argSlot.toNat (trailerR (b.fb e)) (trailerM (b.fb e)) { b with stg := { b.stg with data := body } }

/-- The body into PB, its length, and the fields of the frame (R294, R296). -/
def secDecodeFinish (e : Env) (b : Block) : Turn :=
  .finish .ok
    { b.writePb b.stg.data with
      pbLen := BitVec.ofNat 9 b.stg.data.length
      dec := decodeFields (b.fb e) }

/-- SEC_DECODE as a rule. -/
def secDecodeRule (e : Env) : Rule := [secDecodeStart e, secDecodeCommit e, secDecodeFinish e]

/-- The meaning of SEC_ENCODE. -/
def execSecEncode (s : State) : Host.Outcome State Fault Refusal := .next (runSteps Config.env (secEncodeRule Config.env) s)

/-- The meaning of SEC_DECODE. -/
def execSecDecode (s : State) : Host.Outcome State Fault Refusal := .next (runSteps Config.env (secDecodeRule Config.env) s)

end Sys2Proof.Machine
end

