-- ==== Sys2Proof/Machine/System.lean ====
section
/-! DEFINITION. The system commands (45_system): NOP and the illegal opcode. -/

namespace Sys2Proof.Machine

/-- NOP (45_system R325): `finish OK`. -/
def nopRule : Rule := [fun b => .finish .ok b]

/-- The meaning of NOP. -/
def execNop (s : State) : Host.Outcome State Fault Refusal := .next (runSteps Config.env nopRule s)

/-- An illegal opcode (45_system R326): `raise IllegalCommand`, as its first and only step. -/
def illegalRule : Rule := [fun b => .finish .illegalCommand b]

end Sys2Proof.Machine
end

