-- ==== Sys2Proof/Machine/Dispatch.lean ====
section
/-! DEFINITION. One arm per command. -/

namespace Sys2Proof.Machine

def exec (i : Instr) (s : State) : Host.Outcome State Fault Refusal :=
  match i with
  | .nop => Sys2Proof.Machine.execNop s
  | .crcInit => Sys2Proof.Machine.execCrcInit s
  | .crcUpdate => Sys2Proof.Machine.execCrcUpdate s
  | .crcFinal => Sys2Proof.Machine.execCrcFinal s
  | .hdrEncode => Sys2Proof.Machine.execHdrEncode s
  | .validate => Sys2Proof.Machine.execValidate s
  | .decode => Sys2Proof.Machine.execDecode s
  | .crcAppend => Sys2Proof.Machine.execCrcAppend s
  | .crcVerify => Sys2Proof.Machine.execCrcVerify s
  | .nonceBuild => Sys2Proof.Machine.execNonceBuild s
  | .assocOpen => Sys2Proof.Machine.execAssocOpen s
  | .assocRekey => Sys2Proof.Machine.execAssocRekey s
  | .txNext => Sys2Proof.Machine.execTxNext s
  | .rxCheck => Sys2Proof.Machine.execRxCheck s
  | .rxCommit => Sys2Proof.Machine.execRxCommit s
  | .rxRatchet => Sys2Proof.Machine.execRxRatchet s
  | .secEncode => Sys2Proof.Machine.execSecEncode s
  | .secDecode => Sys2Proof.Machine.execSecDecode s

end Sys2Proof.Machine
end

