-- ==== Sys2Proof/Machine/HostPort.lean ====
section
/-! DEFINITION. The host port (20_memory R80 to R88): the address map of R82, reads and writes of every register, and the
busy lockout of R86. -/

namespace Sys2Proof.Machine

/-! Register addresses (20_memory R82) -/

def Addr.cmd : HostAddr := 0x200
def Addr.status : HostAddr := 0x201
def Addr.result : HostAddr := 0x202
def Addr.ctrl : HostAddr := 0x203
def Addr.fbLenH : HostAddr := 0x204
def Addr.fbLenL : HostAddr := 0x205
def Addr.pbLenH : HostAddr := 0x206
def Addr.pbLenL : HostAddr := 0x207
def Addr.argType : HostAddr := 0x208
def Addr.argFlags : HostAddr := 0x209
def Addr.argSeq : HostAddr := 0x20A
def Addr.argIdLen : HostAddr := 0x20B
def Addr.argBl : HostAddr := 0x20C
def Addr.argSlot : HostAddr := 0x20D
def Addr.maxFl : HostAddr := 0x20E
def Addr.argData : HostAddr := 0x20F
def Addr.crcState : HostAddr := 0x210
def Addr.crcOut : HostAddr := 0x211
def Addr.argR : HostAddr := 0x212
def Addr.argM : HostAddr := 0x215
def Addr.argId : HostAddr := 0x218
def Addr.iv : HostAddr := 0x228
def Addr.dFl : HostAddr := 0x240
def Addr.assocSel : HostAddr := 0x250
def Addr.aCfg : HostAddr := 0x251
def Addr.aNodeId : HostAddr := 0x252
def Addr.aTxRc : HostAddr := 0x25A
def Addr.aTxMc : HostAddr := 0x25D
def Addr.aRxLr : HostAddr := 0x260
def Addr.aRxLm : HostAddr := 0x263
def Addr.aKey : HostAddr := 0x270
def Addr.infoId : HostAddr := 0x280

/-! Reads -/

/-- `CTRL` as read: bits 7:2 are 0 (10_state R37). -/
def Block.ctrlByte (b : Block) : Byte := (0 : BitVec 6) ++ BitVec.ofBool b.pad31 ++ BitVec.ofBool b.ie

/-- The high byte of a 9-bit length register, bit 0 = bit 8 (10_state R38). -/
def lenHigh (v : BitVec 9) : Byte := (v.extractLsb' 8 1).setWidth 8

/-- The low byte of a 9-bit length register (R38). -/
def lenLow (v : BitVec 9) : Byte := v.extractLsb' 0 8

/-- `A_CFG` of a slot (10_state R57). -/
def Slot.cfgByte (sl : Slot) : Byte :=
  (0 : BitVec 4) ++ BitVec.ofBool sl.rxLav ++ BitVec.ofBool sl.txExh ++ BitVec.ofBool sl.isOpen
    ++ BitVec.ofBool (sl.role == .source)

/-- The register `D_*` at offset `i` from `D_FL` (10_state R49). -/
def Decoded.byteAt (d : Decoded) (i : Nat) : Byte :=
  match i with
  | 0 => d.fl
  | 1 => d.type.setWidth 8
  | 2 => (BitVec.ofBool d.sec).setWidth 8
  | 3 => d.seq.setWidth 8
  | 4 => d.idLen
  | 5 => d.bl
  | 6 => d.tl
  | 7 => d.bodyOff
  | 8 => d.trlOff
  | _ => 0

/-- The slot window at offset `a` in 0x251 to 0x27F (10_state R57, 20_memory R82). `KEY` reads as 0 (R51). -/
def Slot.windowByte (sl : Slot) (a : Nat) : Byte :=
  if a = 0x251 then sl.cfgByte
  else if a < 0x25A then getByte sl.nodeId (a - 0x252)
  else if a < 0x25D then getByte sl.txRc (a - 0x25A)
  else if a < 0x260 then getByte sl.txMc (a - 0x25D)
  else if a < 0x263 then getByte sl.rxLr (a - 0x260)
  else if a < 0x266 then getByte sl.rxLm (a - 0x263)
  else 0

/-- The identification registers (10_state R47), 0 elsewhere (20_memory R83). -/
def readInfo (a : Nat) : Byte :=
  if a = 0x280 then Config.infoId
  else if a = 0x281 then Config.infoRev
  else if a = 0x282 then BitVec.ofNat 8 Config.pAssoc
  else 0

/-- The slot window through `ASSOC_SEL`: 0 when it names no slot (10_state R57). -/
def State.readWindow (s : State) (a : Nat) : Byte :=
  if s.assocSel.toNat < Config.pAssoc then (s.blk.slot s.assocSel.toNat).windowByte a else 0

/-- A one-byte register at 0x200 to 0x211. -/
def State.readControl (s : State) (a : Nat) : Byte :=
  match a with
  | 0x200 => s.cmd
  | 0x201 => s.statusByte
  | 0x202 => s.result.toByte
  | 0x203 => s.blk.ctrlByte
  | 0x204 => lenHigh s.blk.fbLen
  | 0x205 => lenLow s.blk.fbLen
  | 0x206 => lenHigh s.blk.pbLen
  | 0x207 => lenLow s.blk.pbLen
  | 0x208 => s.blk.argType
  | 0x209 => s.blk.argFlags.setWidth 8
  | 0x20A => s.blk.argSeq.setWidth 8
  | 0x20B => s.blk.argIdLen
  | 0x20C => s.blk.argBl
  | 0x20D => s.blk.argSlot
  | 0x20E => s.blk.maxFl
  | 0x20F => s.blk.argData
  | 0x210 => s.blk.crcState.setWidth 8
  | 0x211 => s.blk.crcOut
  | _ => 0

/-- What the location at an address holds, as the Host reads it while IDLE (R82). Reserved addresses read 0 (R83). -/
def State.readLocation (e : Env) (s : State) (a : Nat) : Byte :=
  if a < bufEnd then s.blk.bufByte e a
  else if a < 0x212 then s.readControl a
  else if a < 0x215 then getByte s.blk.argR (a - 0x212)
  else if a < 0x218 then getByte s.blk.argM (a - 0x215)
  else if a < 0x227 then getByte s.blk.argId (a - 0x218)
  else if a < 0x228 then 0
  else if a < 0x234 then getByte s.blk.iv (a - 0x228)
  else if a < 0x240 then 0
  else if a < 0x250 then s.blk.dec.byteAt (a - 0x240)
  else if a = 0x250 then s.assocSel
  else if a < 0x280 then s.readWindow a
  else readInfo a

/-- `MemRead(a, 1)` (R80): while BUSY only `CMD`, `STATUS` and `RESULT` read as themselves, everything else as 0 (R86). -/
def State.hostRead (e : Env) (s : State) (a : HostAddr) : Byte :=
  if s.isBusy && !(a == Addr.cmd || a == Addr.status || a == Addr.result) then 0 else s.readLocation e a.toNat

/-! Writes -/

/-- A 9-bit length register with its high byte written: only bit 0 is kept (10_state R38). -/
def setLenHigh (v : BitVec 9) (x : Byte) : BitVec 9 := x.extractLsb' 0 1 ++ v.extractLsb' 0 8

/-- A 9-bit length register with its low byte written. -/
def setLenLow (v : BitVec 9) (x : Byte) : BitVec 9 := v.extractLsb' 8 1 ++ x

/-- A write to a register at 0x203 to 0x211; other bits and read-only registers ignore it (R83). -/
def Block.writeControl (b : Block) (a : Nat) (v : Byte) : Block :=
  match a with
  | 0x203 => { b with ie := v.getLsbD 0, pad31 := v.getLsbD 1 }
  | 0x204 => { b with fbLen := setLenHigh b.fbLen v }
  | 0x205 => { b with fbLen := setLenLow b.fbLen v }
  | 0x206 => { b with pbLen := setLenHigh b.pbLen v }
  | 0x207 => { b with pbLen := setLenLow b.pbLen v }
  | 0x208 => { b with argType := v }
  | 0x209 => { b with argFlags := v.setWidth 2 }
  | 0x20A => { b with argSeq := v.setWidth 4 }
  | 0x20B => { b with argIdLen := v }
  | 0x20C => { b with argBl := v }
  | 0x20D => { b with argSlot := v }
  | 0x20E => { b with maxFl := v }
  | 0x20F => { b with argData := v }
  | 0x210 => { b with crcState := v.setWidth 7 }
  | _ => b

/-- A slot with a byte of its window written: `ROLE`, `NODEID` and `KEY` only (10_state R51 to R57). -/
def Slot.writeWindow (sl : Slot) (a : Nat) (v : Byte) : Slot :=
  if a = 0x251 then { sl with role := if v.getLsbD 0 then .source else .sink }
  else if a < 0x25A then { sl with nodeId := setByte sl.nodeId (a - 0x252) v }
  else if a < 0x270 then sl
  else { sl with key := setByte sl.key (a - 0x270) v }

/-- A write through the slot window: ignored when `ASSOC_SEL` names no slot (R57). -/
def State.writeWindow (s : State) (a : Nat) (v : Byte) : State :=
  if s.assocSel.toNat < Config.pAssoc then
    { s with blk := s.blk.setSlot s.assocSel.toNat ((s.blk.slot s.assocSel.toNat).writeWindow a v) }
  else s

/-- A write while IDLE (R82, R87). -/
def State.writeLocation (s : State) (a : Nat) (v : Byte) : State :=
  if a < bufEnd then { s with blk := { s.blk with mem := s.blk.mem.set a v } }
  else if a = 0x200 then s.startCommand v
  else if a = 0x201 then s.clearStatus v
  else if a < 0x212 then { s with blk := s.blk.writeControl a v }
  else if a < 0x215 then { s with blk := { s.blk with argR := setByte s.blk.argR (a - 0x212) v } }
  else if a < 0x218 then { s with blk := { s.blk with argM := setByte s.blk.argM (a - 0x215) v } }
  else if a < 0x227 then { s with blk := { s.blk with argId := setByte s.blk.argId (a - 0x218) v } }
  else if a < 0x250 then s
  else if a = 0x250 then { s with assocSel := v }
  else if a < 0x280 then s.writeWindow a v
  else s

/-- `MemWrite(a, 1, v)` (R80): while BUSY it is dropped and sets `WERR` (R86). -/
def State.hostWrite (s : State) (a : HostAddr) (v : Byte) : State :=
  if s.isBusy then { s with werr := true } else s.writeLocation a.toNat v

end Sys2Proof.Machine
end

