-- ==== Sys2Proof/Machine/Sequencer.lean ====
section
/-! DEFINITION. The command sequencer and the events of the schedule (45_system R320 to R327): which rule an opcode runs, one
Core step, one agent's answer, the rest of a command at once, and what each event does. -/

namespace Sys2Proof.Machine

/-- The rule of each command (30_encoding R121). -/
def ruleOf (e : Env) : Instr → Rule
  | .nop => nopRule
  | .crcInit => crcInitRule
  | .crcUpdate => crcUpdateRule
  | .crcFinal => crcFinalRule
  | .hdrEncode => hdrEncodeRule
  | .validate => validateRule e
  | .decode => decodeRule e
  | .crcAppend => crcAppendRule e
  | .crcVerify => crcVerifyRule e
  | .nonceBuild => nonceBuildRule e
  | .assocOpen => assocOpenRule e
  | .assocRekey => assocRekeyRule e
  | .txNext => txNextRule e
  | .rxCheck => rxCheckRule
  | .rxCommit => rxCommitRule
  | .rxRatchet => rxRatchetRule
  | .secEncode => secEncodeRule e
  | .secDecode => secDecodeRule e

/-- The rule an opcode byte runs: its command's, or the illegal opcode's (R326). -/
def opcodeRule (e : Env) (op : Byte) : Rule :=
  match decodeByte op with
  | .ok i => ruleOf e i
  | .error _ => illegalRule

/-- A request of the NV channel (the others are of the GCM channel, 20_memory R81). -/
def Request.isNv : Request → Bool
  | .nvRead _ | .nvWrite _ _ => true
  | .gcmEnc _ _ _ _ | .gcmDec _ _ _ _ _ => false

/-- One Core step (45_system R320): only while BUSY with no request outstanding; otherwise Core does not move. -/
def coreStep (e : Env) (s : State) : State :=
  match s.phase with
  | .busy op n none => stepRule (opcodeRule e op) op n s
  | _ => s

/-- An agent's answer: it answers the outstanding request if that is one of its own (`nv` says which agent); an answer to
nothing is ignored (70_reset_and_hazards R380, assumption log 9). -/
def agentAnswer (e : Env) (nv : Bool) (s : State) : State :=
  match s.phase with
  | .busy op n (some q) => if q.isNv = nv then { answer e s q with phase := .busy op n none } else s
  | _ => s

/-- The rest of the running command as one step: the outstanding request is answered, then the remaining steps run
(R321, R327). -/
def resume (e : Env) (s : State) : State :=
  match s.phase with
  | .idle => s
  | .busy op n none => runSteps e ((opcodeRule e op).drop n) s
  | .busy op n (some q) => runSteps e ((opcodeRule e op).drop n) (answer e s q)

/-- The running command, as one step: a command that has just started is executed by `ex`, the dispatch; an illegal opcode
completes with `IllegalCommand` (R326); a command under way is resumed; idle, nothing happens (00_scope R7). -/
def runCommand (e : Env) (ex : Instr → State → Host.Outcome State Fault Refusal) (s : State) :
    Host.Outcome State Fault Refusal :=
  match s.phase with
  | .busy op 0 none =>
    match decodeByte op with
    | .ok i => ex i s
    | .error _ => .next (runSteps e illegalRule s)
  | _ => .next (resume e s)

/-- The platform changes a record from outside the block: one of the block's ids, exactly 10 bytes; anything else is no
provisioning (assumption log 12). -/
def provision (k : Nat) (rec : List Byte) (s : State) : State :=
  if k < Config.pAssoc ∧ nvRecordWf rec = true then { s with nv := nvStore s.nv k rec } else s

/-- What an event does (R320). -/
def handleEvent (e : Env) (ex : Instr → State → Host.Outcome State Fault Refusal) (ev : Event) (s : State) :
    Host.Outcome State Fault Refusal :=
  match ev with
  | .read a => .next { s with rdata := s.hostRead e a }
  | .write a v => .next (s.hostWrite a v)
  | .core => .next (coreStep e s)
  | .nvAnswer => .next (agentAnswer e true s)
  | .gcmAnswer => .next (agentAnswer e false s)
  | .run => runCommand e ex s
  | .reset landed => .next (s.powerOn landed)
  | .provision k rec => .next (provision k rec s)

/-- One step of the machine (assumption log 1): the oldest event of the schedule happens; with no event pending, the running
command finishes. -/
def stepWith (e : Env) (ex : Instr → State → Host.Outcome State Fault Refusal) (s : State) :
    Host.Outcome State Fault Refusal :=
  match s.inputs with
  | [] => runCommand e ex s
  | ev :: rest => handleEvent e ex ev { s with inputs := rest }

/-- The commands run with given agents and parameters, for claims about any `Env`. -/
def execWith (e : Env) (i : Instr) (s : State) : Host.Outcome State Fault Refusal := .next (runSteps e (ruleOf e i) s)

/-- The command of a table word started, as a write of its byte to `CMD` while IDLE starts it (R322), with no other event
pending (assumption log 2). -/
def withCommand (s : State) (v : Byte) : State := { s.startCommand v with inputs := [] }

end Sys2Proof.Machine
end

