-- ==== Sys2Proof/Machine/Step.lean ====
section
/-! DEFINITION. One step of the machine, with this hardware's agents and parameters. -/

namespace Sys2Proof.Machine

/-- One step (45_system R320; assumption log 1). -/
def step (s : State) : Host.Outcome State Fault Refusal := stepWith Config.env exec s

/-- The state whose very next step runs the command of an opcode-table word (assumption log 2). -/
def State.withFetchWord (s : State) (nbits w : Nat) : State := withCommand s (tableByte nbits w)

end Sys2Proof.Machine
end

