-- ==== Sys2Proof/Machine/HostProgram.lean ====
section
/-! DEFINITION. The host-program notation of 30_encoding R128 and its expansion into events. A `wait` loop is the rest of the
running command and then the read of `STATUS` that ends it ("In a big-step model every wait loop reads STATUS once",
95_test_vectors L3; assumption log 22). -/

namespace Sys2Proof.Machine

/-- A statement of a host program (R128). -/
inductive HostStmt where
  | wr (a : HostAddr) (v : Byte)
  | rd (a : HostAddr)
  /-- `wrn A, V0 V1 … Vk` -/
  | wrn (a : HostAddr) (vs : List Byte)
  /-- `cmd MNEM` -/
  | cmd (i : Instr)
  | wait
  /-- `exec MNEM` -/
  | exec (i : Instr)
  /-- `fblen N` -/
  | fblen (n : BitVec 9)
  /-- `pblen N` -/
  | pblen (n : BitVec 9)
  /-- `sel K` -/
  | sel (k : Byte)
  | clr
  /-- `expect A, V`: a read; the comparison with `V` is the test's -/
  | expect (a : HostAddr) (v : Byte)
  deriving DecidableEq, Repr

/-- Writes of consecutive addresses. -/
def writeRun : HostAddr → List Byte → List Event
  | _, [] => []
  | a, v :: vs => .write a v :: writeRun (a + 1) vs

/-- The expansion of a statement (R128). -/
def HostStmt.expand : HostStmt → List Event
  | .wr a v => [.write a v]
  | .rd a => [.read a]
  | .wrn a vs => writeRun a vs
  | .cmd i => [.write Addr.cmd (encodeByte i)]
  | .wait => [.run, .read Addr.status]
  | .exec i => [.write Addr.cmd (encodeByte i), .run, .read Addr.status]
  | .fblen n => [.write Addr.fbLenH (lenHigh n), .write Addr.fbLenL (lenLow n)]
  | .pblen n => [.write Addr.pbLenH (lenHigh n), .write Addr.pbLenL (lenLow n)]
  | .sel k => [.write Addr.assocSel k]
  | .clr => [.write Addr.status 0x0A]
  | .expect a _ => [.read a]

/-- The events of a host program. -/
def expandProgram (p : List HostStmt) : List Event := p.flatMap HostStmt.expand

end Sys2Proof.Machine
end

