-- ==== Sys2Proof/Safety.lean ====
section
/-! DEFINITION. The words the statements use: a completed command, the invariant of the machine, agreement of a slot with its
NV record, what a GCM engine owes, host actions over the life of a key, and interleavings of a command. -/

namespace Sys2Proof.Machine

/-! Completion -/

/-- The state after a command that completed with `code` and left the block `b` (45_system R323). The staging buffer holds
nothing: "a model need not keep `STG` between commands" (10_state R59). -/
def Completed (s : State) (code : ResultCode) (b : Block) : State :=
  { s with result := code, phase := .idle, done := true, blk := { b with stg := Staging.empty } }

/-- The state at the end of a command the Host starts in `s`, with agents `e`. -/
def commandEnd (e : Env) (i : Instr) (s : State) : State := runSteps e (ruleOf e i) (s.startCommand (encodeByte i))

/-- Command `i` gives `InvalidSlot`, with no state change and no request, when `ARG_SLOT` names no slot (10_state R44). -/
def RefusesBadSlot (i : Instr) : Prop :=
  ∀ s : State, 4 ≤ s.blk.argSlot.toNat → exec i s = .next (Completed s .invalidSlot s.blk)

/-- Command `i` gives `NotOpen`, with no state change and no request, on a slot with `OPEN = 0` (10_state R54). -/
def RefusesClosedSlot (i : Instr) : Prop :=
  ∀ s : State, s.blk.argSlot.toNat < 4 → (s.blk.slot s.blk.argSlot.toNat).isOpen = false →
    exec i s = .next (Completed s .notOpen s.blk)

/-- How a command on slot `k` ends when it issued `reqs`: completed with `code`, the block being `b` but for the slot file, in
which slot `k` holds `sl` and every other slot what it held; and the NV record of id `k` being `written` if there is one, every
other record what it was. -/
def SlotCommandEnds (e : Env) (s t : State) (code : ResultCode) (b : Block) (k : Nat) (sl : Slot) (reqs : List Request)
    (written : Option (List Byte)) : Prop :=
  t = { Completed s code { b with slots := t.blk.slots } with nv := t.nv, requests := s.requests ++ reqs } ∧
  (∀ j, t.blk.slot j = if j = k then sl else s.blk.slot j) ∧
  (written = none → t.nv = s.nv) ∧
  ∀ j, nvRecord e t.nv j = if j = k then written.getD (nvRecord e s.nv k) else nvRecord e s.nv j

/-- A slot after it handed out its next pair, the seed being 0 (43_replayguard R240). -/
def Slot.advanced (sl : Slot) : Slot :=
  if sl.txMc ≠ Config.ctrMax then { sl with txMc := sl.txMc + 1 }
  else if sl.txRc ≠ Config.ctrMax then { sl with txRc := sl.txRc + 1, txMc := 0 }
  else { sl with txExh := true }

/-- Whether handing out the next pair rolls the message counter over, which is written to NV (R240). -/
def Slot.rollsOver (sl : Slot) : Bool := sl.txMc == Config.ctrMax && sl.txRc != Config.ctrMax

/-! The invariant -/

/-- What holds of a slot in every state: `OPEN = 0, TXEXH = 1` is unreachable (43_replayguard R235), and an exhausted slot
stands at the last pair (R237, R240). -/
def Slot.Inv (sl : Slot) : Prop :=
  (sl.isOpen = false → sl.txExh = false) ∧ (sl.txExh = true → sl.txRc = Config.ctrMax ∧ sl.txMc = Config.ctrMax)

/-- What holds of the sequencer: idle, `STG` holds nothing; busy, `CMD` is the opcode being run, `DONE` is 0 (45_system R322),
and the outstanding request is the last one issued (10_state R33). -/
def State.phaseInv (s : State) : Prop :=
  match s.phase with
  | .idle => s.blk.stg = Staging.empty
  | .busy op _ req => s.cmd = op ∧ s.done = false ∧ ∀ q, req = some q → s.requests.getLast? = some q

/-- The invariant every step keeps. -/
structure State.Inv (s : State) : Prop where
  mem : s.blk.mem.wf = true
  nv : s.nv.wf = true
  slots : ∀ k, k < Config.pAssoc → (s.blk.slot k).Inv
  phase : s.phaseInv

/-! NV records and counters -/

/-- An open slot agrees with its NV record: `NV_RC` is the `TXRC` in use and the recorded pair is persisted (20_memory R94,
43_replayguard R236, R245). -/
def NvMatches (e : Env) (k : Nat) (s : State) : Prop :=
  (s.blk.slot k).isOpen = true →
    be24At (nvRecord e s.nv k) 0 = (s.blk.slot k).txRc ∧
    ((byteAt (nvRecord e s.nv k) 3 != 0x00) = (s.blk.slot k).rxLav) ∧
    be24At (nvRecord e s.nv k) 4 = (s.blk.slot k).rxLr ∧
    be24At (nvRecord e s.nv k) 7 = (s.blk.slot k).rxLm

/-- What the Host and the platform do over the life of a key: a command run to its end, a write to the host port, a reset
between commands, and a reset in the middle of a command, whose NV write has landed or not (70_reset_and_hazards R380). -/
inductive Act where
  | command (i : Instr)
  | hostWrite (a : HostAddr) (v : Byte)
  | powerCycle
  | crash (i : Instr) (landed : Bool)
  deriving DecidableEq, Repr

/-- The state an action leaves. -/
def Act.after (e : Env) (s : State) : Act → State
  | .command i => commandEnd e i s
  | .hostWrite a v => s.hostWrite a v
  | .powerCycle => { s with phase := .idle }.powerOn false
  | .crash i landed => { s with phase := .idle, nv := if landed then (commandEnd e i s).nv else s.nv }.powerOn false

/-- The pair in the nonce of the first `GcmEnc` request of a list. -/
def encryptedPair : List Request → Option (Ctr × Ctr)
  | [] => none
  | .gcmEnc _ iv _ _ :: _ => some (nonceR iv, nonceM iv)
  | _ :: rest => encryptedPair rest

/-- The sender pair an action hands out on slot `k`: TX_NEXT's `ARG_R`, `ARG_M` on `OK`, or the pair in the nonce SEC_ENCODE
gives the GCM engine. -/
def Act.pairOut (e : Env) (k : Nat) (s : State) : Act → Option (Ctr × Ctr)
  | .command .txNext =>
    if s.blk.argSlot.toNat = k ∧ (commandEnd e .txNext s).result = .ok then
      some ((commandEnd e .txNext s).blk.argR, (commandEnd e .txNext s).blk.argM)
    else none
  | .command .secEncode =>
    if s.blk.argSlot.toNat = k then encryptedPair (commandEnd e .secEncode s).requests else none
  | _ => none

/-- The state after a list of actions. -/
def afterActs (e : Env) : State → List Act → State
  | s, [] => s
  | s, a :: as => afterActs e (a.after e s) as

/-- The sender pairs a list of actions hands out on slot `k`, in order. -/
def pairsOut (e : Env) (k : Nat) : State → List Act → List (Ctr × Ctr)
  | _, [] => []
  | s, a :: as => (a.pairOut e k s).toList ++ pairsOut e k (a.after e s) as

/-- The action starts the counters of slot `k` afresh: an ASSOC_REKEY, run or crashed, while `ARG_SLOT` names it. -/
def Act.rekeys (k : Nat) (s : State) : Act → Bool
  | .command .assocRekey | .crash .assocRekey _ => s.blk.argSlot.toNat == k
  | _ => false

/-- No action of the list starts the counters of slot `k` afresh: ASSOC_REKEY of it is for a new key (60_exceptions R352 item
4). Other slots may be rekeyed. -/
def noRekey (e : Env) (k : Nat) : State → List Act → Bool
  | _, [] => true
  | s, a :: as => !a.rekeys k s && noRekey e k (a.after e s) as

/-! The nonce of a secure command -/

/-- The twelve bytes of a nonce as 42_nonce R220 lists them: the ID bytes, with bit 7 of byte 5 the direction (1 for `Sending`)
when it is forced, then `r`, then `m`, most significant byte first. -/
structure IvBytes (force : Bool) (idByte : Nat → Byte) (r m : Ctr) (sending : Bool) (iv : BitVec 96) : Prop where
  id : ∀ j : Nat, j < 5 → getByte iv j = idByte j
  dir : getByte iv 5 = if force then BitVec.ofBool sending ++ (idByte 5).extractLsb' 0 7 else idByte 5
  restart : ∀ j : Nat, j < 3 → getByte iv (6 + j) = getByte r j
  message : ∀ j : Nat, j < 3 → getByte iv (9 + j) = getByte m j

/-! The GCM engine -/

/-- `GcmCorrect` (20_memory R99). -/
def GcmCorrect (e : Env) : Prop :=
  ∀ k iv ad pt ct tag, e.gcmDec k iv ad ct tag = some pt ↔ e.gcmEnc k iv ad pt = (ct, tag)

/-- `|ct| = |pt|` and `|tag| = 16` (R98), and no encrypt request fails. -/
def GcmAnswersOk (e : Env) : Prop :=
  (∀ k iv ad pt, (e.gcmEnc k iv ad pt).1.length = pt.length ∧ (e.gcmEnc k iv ad pt).2.length = Config.tagBytes)
    ∧ ∀ n, e.gcmEncFails n = false

/-! Interleavings of a command (45_system R320, R321) -/

/-- The events that may fall while a command runs, resets and the platform's provisioning aside: Host accesses, Core steps and
the agents' answers. -/
def Event.ofCommand : Event → Bool
  | .read _ | .write _ _ | .core | .nvAnswer | .gcmAnswer => true
  | .run | .reset _ | .provision _ _ => false

/-- One such event, with this machine's agents. -/
def eventStep (ev : Event) (s : State) : State :=
  match ev with
  | .read a => { s with rdata := s.hostRead Config.env a }
  | .write a v => s.hostWrite a v
  | .core => coreStep Config.env s
  | .nvAnswer => agentAnswer Config.env true s
  | .gcmAnswer => agentAnswer Config.env false s
  | .run | .reset _ | .provision _ _ => s

/-- The events of a list happen in order, all but the last of them leaving the command running. -/
def interleave : State → List Event → Option State
  | s, [] => some s
  | s, ev :: evs => if s.isBusy then interleave (eventStep ev s) evs else none

/-! Host procedures -/

/-- The Host writes bytes to consecutive addresses. -/
def State.hostWrites (s : State) : HostAddr → List Byte → State
  | _, [] => s
  | a, v :: vs => (s.hostWrite a v).hostWrites (a + 1) vs

/-- The Host sets `FB_LEN` (30_encoding R128 `fblen`). -/
def State.hostFbLen (s : State) (n : BitVec 9) : State :=
  (s.hostWrite Addr.fbLenH (lenHigh n)).hostWrite Addr.fbLenL (lenLow n)

/-- The insecure encode procedure of 41_framecodec R193, steps 1 to 4, the operands being in the registers. -/
def insecureEncode (e : Env) (s : State) (body : List Byte) : State :=
  let n := s.blk.argIdLen.toNat
  commandEnd e .crcAppend
    (((commandEnd e .hdrEncode s).hostWrites (BitVec.ofNat 10 (4 + n)) body).hostFbLen
      (BitVec.ofNat 9 (4 + n + body.length)))

/-! The address map by access right (20_memory R82) -/

/-- The bits of a location that a Host write stores and a Host read gives back, while IDLE and with the slot window showing a
slot. `CMD`, `STATUS` and the write-only `A_KEY` are not among them. -/
def rwMask (a : HostAddr) : Byte :=
  if a.toNat < 0x200 then 0xFF
  else if a.toNat = 0x203 then 0x03
  else if a.toNat = 0x204 ∨ a.toNat = 0x206 then 0x01
  else if a.toNat = 0x205 ∨ a.toNat = 0x207 ∨ a.toNat = 0x208 then 0xFF
  else if a.toNat = 0x209 then 0x03
  else if a.toNat = 0x20A then 0x0F
  else if 0x20B ≤ a.toNat ∧ a.toNat ≤ 0x20F then 0xFF
  else if a.toNat = 0x210 then 0x7F
  else if 0x212 ≤ a.toNat ∧ a.toNat ≤ 0x226 then 0xFF
  else if a.toNat = 0x250 then 0xFF
  else if a.toNat = 0x251 then 0x01
  else if 0x252 ≤ a.toNat ∧ a.toNat ≤ 0x259 then 0xFF
  else 0x00

/-- The reserved addresses of R82. -/
def reservedAddr (a : HostAddr) : Bool :=
  a.toNat == 0x227 || (0x234 ≤ a.toNat && a.toNat ≤ 0x23F) || (0x249 ≤ a.toNat && a.toNat ≤ 0x24F)
    || (0x266 ≤ a.toNat && a.toNat ≤ 0x26F) || 0x283 ≤ a.toNat

/-- The read-only locations of R82. -/
def readOnlyAddr (a : HostAddr) : Bool :=
  a.toNat == 0x202 || a.toNat == 0x211 || (0x228 ≤ a.toNat && a.toNat ≤ 0x233) || (0x240 ≤ a.toNat && a.toNat ≤ 0x248)
    || (0x25A ≤ a.toNat && a.toNat ≤ 0x265) || (0x280 ≤ a.toNat && a.toNat ≤ 0x282)

/-- The state with other keys in its slots: slot `k` gets `keys[k]`. -/
def State.withKeys (s : State) (keys : Vector (BitVec 128) Config.pAssoc) : State :=
  { s with blk := { s.blk with slots := s.blk.slots.zipWith (fun sl key => { sl with key := key }) keys } }

end Sys2Proof.Machine
end

