-- ==== Sys2Proof/Certificates/Slice0/Obligations.lean ====
section
/-! DEFINITION. The statements about the machine, for the provers. Each docstring names the rule of spec/ it formalises. -/

open Sys2Proof Sys2Proof.Machine

/-! Decoding and the life of a command -/

/-- 30_encoding R122: exact match on all 8 bits, and no two rows share a byte. -/
def Obligations.OpcodeByteSelectsItsRow : Prop :=
  (∀ (b : Byte) (i : Instr), decodeByte b = .ok i ↔ b = encodeByte i) ∧
  (∀ r ∈ opcodeRows, r.mask = 0xFF) ∧
  opcodeRows.Pairwise (fun r r' => r.pattern ≠ r'.pattern)

/-- 30_encoding R121: some of the map's bytes, as words of the opcode table and as byte sequences. -/
def Obligations.OpcodeMapWordsDecode : Prop :=
  decodeTableWord 8 0x00 = some .nop ∧ decodeTableWord 8 0x02 = some .crcUpdate ∧
  decodeTableWord 8 0x13 = some .crcAppend ∧ decodeTableWord 8 0x20 = some .nonceBuild ∧
  decodeTableWord 8 0x35 = some .rxRatchet ∧ decodeTableWord 8 0x41 = some .secDecode ∧
  decode [0x30, 0x7E] = .ok (.assocOpen, [0x7E]) ∧ decode [0x42] = .error (.illegalOpcode 0x42) ∧
  decode [] = .error .noByte

/-- 30_encoding R124 and 45_system R326: the illegal bytes are exactly those of R124's ranges, and one written to `CMD` while
IDLE completes in one step with `IllegalCommand`, 0x09, and changes nothing else. -/
def Obligations.IllegalOpcodeChangesNothing : Prop :=
  ResultCode.toByte .illegalCommand = 0x09 ∧
  (∀ op : Byte, illegalOpcode op = true ↔ ∀ i : Instr, op ≠ encodeByte i) ∧
  ∀ (op : Byte) (s : State), illegalOpcode op = true → s.phase = .idle → s.inputs = [] →
    step (s.hostWrite Addr.cmd op) = .next { Completed s .illegalCommand s.blk with cmd := op, requests := [] }

/-- A step runs the started command: when the opcode being run decodes to `i` and its first step is due, the step is `exec i`.
The sequencer state takes the place of a program counter (10_state R31). That a step with no event pending, and the event `run`,
run the whole command at once is the model's choice (assumption log 1), which 45_system R321 and R327 permit; so is
`withFetchWord` as the start of a table word's command (assumption log 2). -/
def Obligations.StepRunsStartedCommand : Prop :=
  (∀ (op : Byte) (i : Instr) (s : State), decodeByte op = .ok i → s.phase = .busy op 0 none →
    (s.inputs = [] → step s = exec i s) ∧
    ∀ rest : List Event, s.inputs = .run :: rest → step s = exec i { s with inputs := rest }) ∧
  ∀ (s : State) (nbits w : Nat) (i : Instr), decodeTableWord nbits w = some i →
    step (s.withFetchWord nbits w) = exec i (s.withFetchWord nbits w)

/-- 60_exceptions R335 and 00_scope R7: every step answers a next state, and "Core never starts work on its own": an idle
machine with no event pending stays as it is, and a Core step, an agent's answer or `run` while idle does nothing (assumption
logs 1, 9). -/
def Obligations.MachineNeverStopsAndIdleWaits : Prop :=
  (∀ s : State, ∃ t, step s = .next t) ∧
  ∀ s : State, s.phase = .idle →
    (s.inputs = [] → step s = .next s) ∧
    ∀ (ev : Event) (rest : List Event), (ev = .core ∨ ev = .nvAnswer ∨ ev = .gcmAnswer ∨ ev = .run) →
      s.inputs = ev :: rest → step s = .next { s with inputs := rest }

/-- 20_memory R80 and R87: a host access is one step; a read changes nothing but the byte it returns, the model's `rdata`
(assumption log 11). -/
def Obligations.HostAccessIsOneStep : Prop :=
  ∀ (s : State) (a : HostAddr) (rest : List Event),
    (s.inputs = .read a :: rest → step s = .next { s with rdata := s.hostRead Config.env a, inputs := rest }) ∧
    ∀ v : Byte, s.inputs = .write a v :: rest → step s = .next ({ s with inputs := rest }.hostWrite a v)

/-- 45_system R322: a write to `CMD` while IDLE. That the list of issued requests starts empty is the model's (assumption
log 11). -/
def Obligations.CmdWriteStartsCommand : Prop :=
  ∀ (s : State) (v : Byte) (rest : List Event), s.phase = .idle → s.inputs = .write Addr.cmd v :: rest →
    step s = .next { s with cmd := v, done := false, phase := .busy v 0 none, requests := [], inputs := rest }

/-- 45_system R323 and R325 to R327: every command, from every state, completes once: it is idle, `DONE` is 1, and `CMD`,
`WERR`, the slot selector, the host port and the schedule are as they were. -/
def Obligations.EveryCommandCompletes : Prop :=
  ∀ (i : Instr) (s : State), ∃ t, exec i s = .next t ∧ t.phase = .idle ∧ t.done = true ∧ t.blk.stg = Staging.empty ∧
    t.cmd = s.cmd ∧ t.werr = s.werr ∧ t.assocSel = s.assocSel ∧ t.rdata = s.rdata ∧ t.inputs = s.inputs

/-- 30_encoding R121, the column 'writes': what each command leaves unchanged. No command writes an operand register but
`ARG_R` and `ARG_M`, nor a key, a node ID, a role, another slot than `ARG_SLOT`'s or another NV record than its. -/
def Obligations.CommandsWriteOnlyTheirColumn : Prop :=
  ∀ (i : Instr) (s : State), ∃ t, exec i s = .next t ∧
    (t.blk.ie = s.blk.ie ∧ t.blk.pad31 = s.blk.pad31 ∧ t.blk.argType = s.blk.argType ∧ t.blk.argFlags = s.blk.argFlags ∧
      t.blk.argSeq = s.blk.argSeq ∧ t.blk.argIdLen = s.blk.argIdLen ∧ t.blk.argBl = s.blk.argBl ∧
      t.blk.argSlot = s.blk.argSlot ∧ t.blk.maxFl = s.blk.maxFl ∧ t.blk.argData = s.blk.argData ∧
      t.blk.argId = s.blk.argId) ∧
    (i ≠ .crcInit → i ≠ .crcUpdate → t.blk.crcState = s.blk.crcState) ∧
    (i ≠ .crcFinal → t.blk.crcOut = s.blk.crcOut) ∧
    (i ≠ .txNext → t.blk.argR = s.blk.argR ∧ t.blk.argM = s.blk.argM) ∧
    (i ≠ .nonceBuild → t.blk.iv = s.blk.iv) ∧
    (i ≠ .decode → i ≠ .secDecode → t.blk.dec = s.blk.dec) ∧
    (i ≠ .hdrEncode → i ≠ .crcAppend → i ≠ .secEncode →
      t.blk.fbLen = s.blk.fbLen ∧ ∀ a : Nat, a < 0x100 → t.blk.bufByte Config.env a = s.blk.bufByte Config.env a) ∧
    (i ≠ .secDecode →
      t.blk.pbLen = s.blk.pbLen ∧ ∀ a : Nat, 0x100 ≤ a → t.blk.bufByte Config.env a = s.blk.bufByte Config.env a) ∧
    (∀ k : Nat, (t.blk.slot k).key = (s.blk.slot k).key ∧ (t.blk.slot k).nodeId = (s.blk.slot k).nodeId ∧
      (t.blk.slot k).role = (s.blk.slot k).role) ∧
    (∀ k : Nat, k ≠ s.blk.argSlot.toNat →
      t.blk.slot k = s.blk.slot k ∧ nvRecord Config.env t.nv k = nvRecord Config.env s.nv k) ∧
    (i ∉ [.assocOpen, .assocRekey, .txNext, .rxCommit, .rxRatchet, .secEncode, .secDecode] →
      t.blk.slots = s.blk.slots ∧ t.nv = s.nv ∧ t.requests = s.requests)

/-- 00_scope R10 and 70_reset_and_hazards R385 item 5: no command writes outside FB and PB. -/
def Obligations.CommandsStayInsideTheBuffers : Prop :=
  ∀ (i : Instr) (s : State), s.blk.mem.below bufEnd = true → ∃ t, exec i s = .next t ∧ t.blk.mem.below bufEnd = true

/-! The host port -/

/-- 20_memory R86: the busy lockout. -/
def Obligations.BusyLocksOutTheHost : Prop :=
  ∀ (e : Env) (s : State) (op : Byte) (n : Nat) (req : Option Request), s.phase = .busy op n req →
    (∀ (a : HostAddr) (v : Byte), s.hostWrite a v = { s with werr := true }) ∧
    s.hostRead e 0x200 = s.cmd ∧ s.hostRead e 0x201 = s.statusByte ∧ s.hostRead e 0x202 = s.result.toByte ∧
    ∀ a : HostAddr, a ≠ 0x200 → a ≠ 0x201 → a ≠ 0x202 → s.hostRead e a = 0x00

/-- 20_memory R83 and 10_state R57: reserved addresses read 0, writes to them and to read-only locations are ignored, and so is
the slot window when `ASSOC_SEL` names no slot. -/
def Obligations.ReservedAndReadOnlyWritesAreIgnored : Prop :=
  ∀ (e : Env) (s : State), s.phase = .idle →
    (∀ a : HostAddr, reservedAddr a = true → s.hostRead e a = 0x00) ∧
    (∀ (a : HostAddr) (v : Byte), reservedAddr a = true ∨ readOnlyAddr a = true → s.hostWrite a v = s) ∧
    (Config.pAssoc ≤ s.assocSel.toNat → ∀ a : HostAddr, 0x251 ≤ a.toNat → a.toNat ≤ 0x27F →
      s.hostRead e a = 0x00 ∧ ∀ v : Byte, s.hostWrite a v = s)

/-- 20_memory R82 and R87: a write stores the byte within the location's field rules. While IDLE, the written bits read back,
the other bits of the location and every other location read as before; a write of `ASSOC_SEL` moves the window 0x251 to
0x27F. For a location of the slot window, `ASSOC_SEL` must name a slot (10_state R57). -/
def Obligations.WrittenLocationReadsBack : Prop :=
  ∀ (e : Env) (s : State) (a : HostAddr) (v : Byte), s.phase = .idle → rwMask a ≠ 0x00 →
    a.toNat < 0x251 ∨ s.assocSel.toNat < Config.pAssoc →
    (s.hostWrite a v).hostRead e a &&& rwMask a = v &&& rwMask a ∧
    (s.hostWrite a v).hostRead e a &&& ~~~rwMask a = s.hostRead e a &&& ~~~rwMask a ∧
    ∀ x : HostAddr, x ≠ a → (a = 0x250 → x.toNat < 0x251 ∨ 0x27F < x.toNat) →
      (s.hostWrite a v).hostRead e x = s.hostRead e x

/-- 20_memory R82 with 10_state R34 to R58 and 20_memory R84: what the Host reads at each address that is not reserved, while
IDLE. Multi-byte registers read most significant byte first; the slot window shows the slot `ASSOC_SEL` names. -/
def Obligations.IdleReadsShowTheRegisters : Prop :=
  ∀ (e : Env) (s : State), s.phase = .idle →
    ((∀ i : Nat, i < 0x100 → s.hostRead e (BitVec.ofNat 10 i) = s.blk.fb e i) ∧
      ∀ i : Nat, i < 0x100 → s.hostRead e (BitVec.ofNat 10 (0x100 + i)) = s.blk.pb e i) ∧
    (s.hostRead e 0x200 = s.cmd ∧ s.hostRead e 0x201 = s.statusByte ∧ s.hostRead e 0x202 = s.result.toByte ∧
      s.hostRead e 0x203 = (0 : BitVec 6) ++ BitVec.ofBool s.blk.pad31 ++ BitVec.ofBool s.blk.ie ∧
      s.hostRead e 0x204 ++ s.hostRead e 0x205 = s.blk.fbLen.setWidth 16 ∧
      s.hostRead e 0x206 ++ s.hostRead e 0x207 = s.blk.pbLen.setWidth 16) ∧
    (s.hostRead e 0x208 = s.blk.argType ∧ s.hostRead e 0x209 = s.blk.argFlags.setWidth 8 ∧
      s.hostRead e 0x20A = s.blk.argSeq.setWidth 8 ∧ s.hostRead e 0x20B = s.blk.argIdLen ∧
      s.hostRead e 0x20C = s.blk.argBl ∧ s.hostRead e 0x20D = s.blk.argSlot ∧ s.hostRead e 0x20E = s.blk.maxFl ∧
      s.hostRead e 0x20F = s.blk.argData ∧ s.hostRead e 0x210 = s.blk.crcState.setWidth 8 ∧
      s.hostRead e 0x211 = s.blk.crcOut) ∧
    (s.hostRead e 0x212 ++ s.hostRead e 0x213 ++ s.hostRead e 0x214 = s.blk.argR ∧
      s.hostRead e 0x215 ++ s.hostRead e 0x216 ++ s.hostRead e 0x217 = s.blk.argM ∧
      (∀ i : Nat, i < 15 → s.hostRead e (BitVec.ofNat 10 (0x218 + i)) = getByte s.blk.argId i) ∧
      ∀ i : Nat, i < 12 → s.hostRead e (BitVec.ofNat 10 (0x228 + i)) = getByte s.blk.iv i) ∧
    (s.hostRead e 0x240 = s.blk.dec.fl ∧ s.hostRead e 0x241 = s.blk.dec.type.setWidth 8 ∧
      s.hostRead e 0x242 = (BitVec.ofBool s.blk.dec.sec).setWidth 8 ∧ s.hostRead e 0x243 = s.blk.dec.seq.setWidth 8 ∧
      s.hostRead e 0x244 = s.blk.dec.idLen ∧ s.hostRead e 0x245 = s.blk.dec.bl ∧ s.hostRead e 0x246 = s.blk.dec.tl ∧
      s.hostRead e 0x247 = s.blk.dec.bodyOff ∧ s.hostRead e 0x248 = s.blk.dec.trlOff) ∧
    s.hostRead e 0x250 = s.assocSel ∧
    (∀ sl : Slot, s.assocSel.toNat < Config.pAssoc → sl = s.blk.slot s.assocSel.toNat →
      s.hostRead e 0x251 = (0 : BitVec 4) ++ BitVec.ofBool sl.rxLav ++ BitVec.ofBool sl.txExh ++ BitVec.ofBool sl.isOpen
        ++ BitVec.ofBool (decide (sl.role = .source)) ∧
      (∀ i : Nat, i < 8 → s.hostRead e (BitVec.ofNat 10 (0x252 + i)) = getByte sl.nodeId i) ∧
      s.hostRead e 0x25A ++ s.hostRead e 0x25B ++ s.hostRead e 0x25C = sl.txRc ∧
      s.hostRead e 0x25D ++ s.hostRead e 0x25E ++ s.hostRead e 0x25F = sl.txMc ∧
      s.hostRead e 0x260 ++ s.hostRead e 0x261 ++ s.hostRead e 0x262 = sl.rxLr ∧
      s.hostRead e 0x263 ++ s.hostRead e 0x264 ++ s.hostRead e 0x265 = sl.rxLm ∧
      ∀ i : Nat, i < 16 → s.hostRead e (BitVec.ofNat 10 (0x270 + i)) = 0x00) ∧
    (s.hostRead e 0x280 = 0x5B ∧ s.hostRead e 0x281 = 0x01 ∧ s.hostRead e 0x282 = BitVec.ofNat 8 Config.pAssoc)

/-- 10_state R35 and 20_memory R86: `STATUS` reads its fields, busy or idle; and a write to it while IDLE. -/
def Obligations.StatusFieldsAndWriteOneToClear : Prop :=
  (∀ (e : Env) (s : State), s.hostRead e 0x201 = s.statusByte) ∧
  (∀ s : State, s.statusByte.getLsbD 0 = s.isBusy ∧ s.statusByte.getLsbD 1 = s.done ∧
    s.statusByte.getLsbD 2 = (s.result.toByte != 0x00) ∧ s.statusByte.getLsbD 3 = s.werr ∧
    s.statusByte.extractLsb' 4 4 = 0) ∧
  ∀ (s : State) (v : Byte), s.phase = .idle →
    s.hostWrite 0x201 v = { s with
      done := if v.getLsbD 1 then false else s.done
      werr := if v.getLsbD 3 then false else s.werr }

/-- 30_encoding R127: the values of the result codes, none above 0x0B, as `RESULT` reads them. -/
def Obligations.ResultCodeValues : Prop :=
  [ResultCode.ok, .malformedFrame, .crcMismatch, .replayRejected, .authenticationFailed, .paddingInvalid,
    .counterSpaceExhausted, .encryptionFailed, .invalidLength, .illegalCommand, .invalidSlot, .notOpen].map
      ResultCode.toByte = [0x00, 0x01, 0x02, 0x03, 0x04, 0x05, 0x06, 0x07, 0x08, 0x09, 0x0A, 0x0B] ∧
  (∀ c : ResultCode, c.toByte ≤ 0x0B) ∧
  ∀ (e : Env) (s : State), s.hostRead e 0x202 = s.result.toByte

/-- 10_state R51 and 60_exceptions R346: no host-port read depends on a key, and a key byte is written through `A_KEY[i]` into
the selected slot and nothing else changes. -/
def Obligations.KeysAreWriteOnly : Prop :=
  (∀ (e : Env) (s : State) (keys : Vector (BitVec 128) Config.pAssoc) (a : HostAddr),
    (s.withKeys keys).hostRead e a = s.hostRead e a) ∧
  ∀ (s : State) (i : Nat) (v : Byte), s.phase = .idle → s.assocSel.toNat < Config.pAssoc → i < 16 →
    ∃ t, t = s.hostWrite (BitVec.ofNat 10 (0x270 + i)) v ∧
      t = { s with blk := { s.blk with slots := t.blk.slots } } ∧
      (∀ k : Nat, k ≠ s.assocSel.toNat → t.blk.slot k = s.blk.slot k) ∧
      (∃ key, t.blk.slot s.assocSel.toNat = { s.blk.slot s.assocSel.toNat with key := key } ∧
        ∀ j : Nat, j < 16 → getByte key j = if j = i then v else getByte (s.blk.slot s.assocSel.toNat).key j)

/-- 60_exceptions R340: the completion interrupt rises with every completion while `IE = 1`, of an illegal opcode too, and
falls when `DONE` is cleared, when a command starts, and when `IE` is cleared. -/
def Obligations.InterruptFollowsDoneAndEnable : Prop :=
  (∀ s : State, s.irq = true ↔ s.done = true ∧ s.blk.ie = true) ∧
  (∀ (i : Instr) (s : State), ∃ t, exec i s = .next t ∧ t.irq = s.blk.ie) ∧
  (∀ (op : Byte) (s : State), (runSteps Config.env (opcodeRule Config.env op) s).irq = s.blk.ie) ∧
  (∀ (s : State) (v : Byte), s.phase = .idle → (s.hostWrite 0x200 v).irq = false) ∧
  (∀ (s : State) (v : Byte), s.phase = .idle → v.getLsbD 1 = true → (s.hostWrite 0x201 v).irq = false) ∧
  (∀ (s : State) (v : Byte), s.phase = .idle → v.getLsbD 0 = false → (s.hostWrite 0x203 v).irq = false) ∧
  (∀ (s : State) (v : Byte), s.phase = .idle → s.done = true → v.getLsbD 0 = true → (s.hostWrite 0x203 v).irq = true) ∧
  State.reset.irq = false

/-! Reset -/

/-- 10_state R62: the reset values, read through the host port and, for what it does not show, from the state. The bytes of FB
and PB are free values. -/
def Obligations.ResetValues : Prop :=
  State.reset.phase = .idle ∧
  (∀ e : Env, ∀ a : HostAddr, 0x200 ≤ a.toNat → State.reset.hostRead e a =
    if a = 0x203 then 0x02 else if a = 0x20E then 0xFF else if a = 0x210 then 0x7F
    else if a = 0x280 then 0x5B else if a = 0x281 then 0x01 else if a = 0x282 then BitVec.ofNat 8 Config.pAssoc else 0x00) ∧
  (∀ e : Env, ∀ a : HostAddr, a.toNat < 0x200 → State.reset.hostRead e a = e.unwrittenByte 0 a.toNat) ∧
  (∀ k : Nat, State.reset.blk.slot k =
    { key := 0, nodeId := 0, role := .sink, isOpen := false, txRc := 0, txMc := 0, txExh := false, rxLav := false,
      rxLr := 0, rxLm := 0 }) ∧
  State.reset.irq = false

/-- 70_reset_and_hazards R370 and R380: reset gives every piece of block state its reset value whatever was running; the NV
records are not touched, but that an outstanding `NvWrite` has landed or not. The model's counters go on (assumption
log 7). -/
def Obligations.ResetEventRestoresResetState : Prop :=
  ∀ (s : State) (landed : Bool) (rest : List Event), s.inputs = .reset landed :: rest →
    ∃ t, step s = .next t ∧
      t = { State.reset with
        nv := t.nv, inputs := rest, blk := { Block.reset with draws := s.blk.draws, boots := s.blk.boots + 1 } } ∧
      ((∀ (op : Byte) (n k : Nat) (rec : List Byte), s.phase ≠ .busy op n (some (.nvWrite k rec))) → t.nv = s.nv) ∧
      (∀ (op : Byte) (n k : Nat) (rec : List Byte), s.phase = .busy op n (some (.nvWrite k rec)) →
        t.nv = if landed then nvStore s.nv k rec else s.nv)

/-- 70_reset_and_hazards R380: a reset at any point of a running command leaves the NV records as they were before the command
or as the command leaves them. -/
def Obligations.ResetDuringCommandLeavesOldOrNewRecords : Prop :=
  ∀ (i : Instr) (s : State) (evs : List Event) (u : State) (landed : Bool), s.phase = .busy (encodeByte i) 0 none →
    (∀ ev ∈ evs, Event.ofCommand ev = true) →
    interleave s evs = some u → u.isBusy = true →
    ∃ t, exec i s = .next t ∧ ((u.powerOn landed).nv = s.nv ∨ (u.powerOn landed).nv = t.nv)

/-! System and CRC7 -/

/-- 45_system R325: NOP changes nothing but the completion state. -/
def Obligations.NopOnlyCompletes : Prop :=
  encodeByte .nop = 0x00 ∧ ∀ s : State, exec .nop s = .next (Completed s .ok s.blk)

/-- 40_crc7 R165. -/
def Obligations.CrcInitSetsInitialState : Prop :=
  encodeByte .crcInit = 0x01 ∧ ∀ s : State, exec .crcInit s = .next (Completed s .ok { s.blk with crcState := 0x7F })

/-- 40_crc7 R166. -/
def Obligations.CrcUpdateFeedsOneByte : Prop :=
  encodeByte .crcUpdate = 0x02 ∧
  ∀ s : State, exec .crcUpdate s = .next (Completed s .ok { s.blk with crcState := crc7Update s.blk.crcState s.blk.argData })

/-- 40_crc7 R167 and R162; and of R164 and 30_encoding R135, that a final byte is in 0x01 to 0x7F or is 0x80, so never 0x00 or
0xFF, and that it tells the state apart. -/
def Obligations.CrcFinalWritesFinalByte : Prop :=
  encodeByte .crcFinal = 0x03 ∧
  (∀ s : State, exec .crcFinal s = .next (Completed s .ok
    { s.blk with crcOut := if s.blk.crcState = 0 then 0x80 else s.blk.crcState.setWidth 8 })) ∧
  (∀ c : BitVec 7, 0x01 ≤ crc7Final c ∧ crc7Final c ≤ 0x80) ∧ ∀ c c' : BitVec 7, crc7Final c = crc7Final c' → c = c'

/-- 40_crc7 R161, its two equivalent forms. -/
def Obligations.CrcUpdateEquivalentForms : Prop :=
  ∀ (c : BitVec 7) (d : Byte),
    crc7Update c d = crc7Update 0 ((c.setWidth 8 <<< 1) ^^^ d) ∧
    (crc7Update c d).setWidth 8 =
      (fun x : Byte => if x.getLsbD 7 then (x <<< 1) ^^^ 0x6E else x <<< 1)^[8] ((c.setWidth 8 <<< 1) ^^^ d) >>> 1

/-! FrameCodec -/

/-- 41_framecodec R183: the header bytes in FB and `FB_LEN`, and nothing else; `InvalidLength` with no state change when one of
the four checks fails. -/
def Obligations.HdrEncodeWritesHeader : Prop :=
  encodeByte .hdrEncode = 0x10 ∧
  ∀ (s : State) (n b fl : Nat), n = s.blk.argIdLen.toNat → b = s.blk.argBl.toNat →
    fl = 3 + n + b + (if s.blk.secFlag then 23 else 1) →
    (15 < n ∨ 251 < b ∨ s.blk.frameType = 0x00 ∨ s.blk.frameType = 0x7F ∨ 255 < fl →
      exec .hdrEncode s = .next (Completed s .invalidLength s.blk)) ∧
    (n ≤ 15 → b ≤ 251 → s.blk.frameType ≠ 0x00 → s.blk.frameType ≠ 0x7F → fl ≤ 255 →
      ∃ t, exec .hdrEncode s = .next t ∧
        t = Completed s .ok { s.blk with mem := t.blk.mem, fbLen := BitVec.ofNat 9 (4 + n) } ∧
        (t.blk.fb Config.env 0).toNat = fl ∧
        t.blk.fb Config.env 1 = BitVec.ofBool s.blk.secFlag ++ s.blk.frameType ∧
        t.blk.fb Config.env 2 = s.blk.argSeq ++ BitVec.ofNat 4 n ∧
        (∀ j : Nat, j < n → t.blk.fb Config.env (3 + j) = getByte s.blk.argId j) ∧
        t.blk.fb Config.env (3 + n) = s.blk.argBl ∧
        ∀ a : Nat, 4 + n ≤ a → t.blk.bufByte Config.env a = s.blk.bufByte Config.env a)

/-- 41_framecodec R184 and R186: the structural check passes exactly when the frame is at least 4 and at most `maxfl` long and
wholly in the buffer, its type is not reserved, its ID has at most 8 bytes, header and body leave a trailer, of one byte if
the frame is insecure, and its last byte is neither 0x00 nor 0xFF; and it reads no index at or above the number of valid bytes
and none above `fl`. -/
def Obligations.ValidateStructureAcceptsExactly : Prop :=
  (∀ (F G : Nat → Byte) (L maxfl : Nat), (∀ i : Nat, i < L → i ≤ (F 0).toNat → F i = G i) →
    validateStructure F L maxfl = validateStructure G L maxfl) ∧
  ∀ (F : Nat → Byte) (L maxfl : Nat), validateStructure F L maxfl = true ↔
    (4 ≤ (F 0).toNat ∧ (F 0).toNat ≤ maxfl ∧ (F 0).toNat + 1 ≤ L) ∧
    ((F 1).toNat % 128 ≠ 0x00 ∧ (F 1).toNat % 128 ≠ 0x7F) ∧
    ((F 2).toNat % 16 ≤ 8 ∧ (F 2).toNat % 16 + 4 ≤ (F 0).toNat) ∧
    (4 + (F 2).toNat % 16 + (F (3 + (F 2).toNat % 16)).toNat ≤ (F 0).toNat ∧
      ((F 1).toNat < 128 → (F 0).toNat = 4 + (F 2).toNat % 16 + (F (3 + (F 2).toNat % 16)).toNat) ∧
      F (F 0).toNat ≠ 0x00 ∧ F (F 0).toNat ≠ 0xFF)

/-- 41_framecodec R185. -/
def Obligations.ValidateReportsTheCheck : Prop :=
  encodeByte .validate = 0x11 ∧
  ∀ s : State, exec .validate s = .next (Completed s
    (if validateStructure (s.blk.fb Config.env) (min s.blk.fbLen.toNat 256) s.blk.maxFl.toNat then .ok else .malformedFrame)
    s.blk)

/-- 41_framecodec R188: `D_*` hold the fields of a valid frame, as numbers, and are unchanged otherwise. The offsets are those of
R187 and 10_state R49, which the worked example printed in R188 contradicts (assumption log 24). -/
def Obligations.DecodeExposesFields : Prop :=
  encodeByte .decode = 0x12 ∧
  ∀ s : State, (s.blk.fbValid Config.env = false → exec .decode s = .next (Completed s .malformedFrame s.blk)) ∧
    (s.blk.fbValid Config.env = true → ∃ t, exec .decode s = .next t ∧
      t = Completed s .ok { s.blk with dec := t.blk.dec } ∧
      t.blk.dec.fl = s.blk.fb Config.env 0 ∧
      t.blk.dec.type = (s.blk.fb Config.env 1).extractLsb' 0 7 ∧
      t.blk.dec.sec = (s.blk.fb Config.env 1).getLsbD 7 ∧
      t.blk.dec.seq = (s.blk.fb Config.env 2).extractLsb' 4 4 ∧
      t.blk.dec.idLen.toNat = (s.blk.fb Config.env 2).toNat % 16 ∧
      t.blk.dec.bl = s.blk.fb Config.env (3 + (s.blk.fb Config.env 2).toNat % 16) ∧
      t.blk.dec.tl.toNat + 3 + t.blk.dec.idLen.toNat + t.blk.dec.bl.toNat = t.blk.dec.fl.toNat ∧
      t.blk.dec.bodyOff.toNat = 4 + t.blk.dec.idLen.toNat ∧
      t.blk.dec.trlOff.toNat = 4 + t.blk.dec.idLen.toNat + t.blk.dec.bl.toNat)

/-- 41_framecodec R190: the trailer byte after the `FBL` bytes of FB, and `InvalidLength` when there is no room. -/
def Obligations.CrcAppendWritesTrailer : Prop :=
  encodeByte .crcAppend = 0x13 ∧
  ∀ s : State, (s.blk.fbl = 256 → exec .crcAppend s = .next (Completed s .invalidLength s.blk)) ∧
    (s.blk.fbl ≠ 256 → ∃ t, exec .crcAppend s = .next t ∧
      t = Completed s .ok { s.blk with mem := t.blk.mem, fbLen := BitVec.ofNat 9 (s.blk.fbl + 1) } ∧
      t.blk.fb Config.env s.blk.fbl = crc7Final (crc7 (bufSlice (s.blk.fb Config.env) 0 s.blk.fbl)) ∧
      ∀ a : Nat, a ≠ s.blk.fbl → t.blk.bufByte Config.env a = s.blk.bufByte Config.env a)

/-- 41_framecodec R192. -/
def Obligations.CrcVerifyComparesTrailer : Prop :=
  encodeByte .crcVerify = 0x14 ∧
  ∀ s : State, exec .crcVerify s = .next (Completed s
    (if s.blk.fbValid Config.env = false ∨ (s.blk.fb Config.env 1).getLsbD 7 = true then .malformedFrame
     else if crc7Final (crc7 (bufSlice (s.blk.fb Config.env) 0 (s.blk.fb Config.env 0).toNat)) =
        s.blk.fb Config.env (s.blk.fb Config.env 0).toNat then .ok
     else .crcMismatch)
    s.blk)

/-- 41_framecodec R193: the insecure round trip, for any agents and parameters. -/
def Obligations.InsecureFrameRoundTrip : Prop :=
  ∀ (e : Env) (s : State) (body : List Byte), s.blk.secFlag = false → s.blk.frameType ≠ 0x00 → s.blk.frameType ≠ 0x7F →
    s.blk.argIdLen.toNat ≤ 8 → body.length = s.blk.argBl.toNat → s.blk.argIdLen.toNat + body.length ≤ 251 →
    s.blk.maxFl = 0xFF →
    ∃ u, u = insecureEncode e s body ∧ u.result = .ok ∧
      (commandEnd e .validate u).result = .ok ∧ (commandEnd e .crcVerify u).result = .ok ∧
      (commandEnd e .decode u).result = .ok ∧
      (commandEnd e .decode u).blk.dec.type = s.blk.frameType ∧ (commandEnd e .decode u).blk.dec.sec = false ∧
      (commandEnd e .decode u).blk.dec.seq = s.blk.argSeq ∧ (commandEnd e .decode u).blk.dec.idLen = s.blk.argIdLen ∧
      (commandEnd e .decode u).blk.dec.bl = s.blk.argBl ∧
      (∀ j : Nat, j < s.blk.argIdLen.toNat → u.blk.fb e (3 + j) = getByte s.blk.argId j) ∧
      bufSlice (u.blk.fb e) (4 + s.blk.argIdLen.toNat) body.length = body

/-! NonceAssembler -/

/-- 42_nonce R222 and R220, with this hardware's `P_DIR_FORCE = true`: the bytes of `IV`. -/
def Obligations.NonceBuildAssemblesIv : Prop :=
  encodeByte .nonceBuild = 0x20 ∧
  ∀ s : State, ∃ t, exec .nonceBuild s = .next t ∧ t = Completed s .ok { s.blk with iv := t.blk.iv } ∧
    (∀ j : Nat, j < 5 → getByte t.blk.iv j = getByte s.blk.argId j) ∧
    getByte t.blk.iv 5 = BitVec.ofBool (s.blk.argFlags.getLsbD 1) ++ (getByte s.blk.argId 5).extractLsb' 0 7 ∧
    (∀ j : Nat, j < 3 → getByte t.blk.iv (6 + j) = getByte s.blk.argR j) ∧
    (∀ j : Nat, j < 3 → getByte t.blk.iv (9 + j) = getByte s.blk.argM j)

/-- 42_nonce R221: the two directions of one key never share an IV; for one ID and direction distinct pairs give distinct IVs;
the low nibble of the last byte is that of `m`. -/
def Obligations.NoncesAreDistinct : Prop :=
  (∀ (id6 : BitVec 48) (r m r' m' : Ctr), nonce true id6 r m .sending ≠ nonce true id6 r' m' .receiving) ∧
  (∀ (force : Bool) (id6 : BitVec 48) (dir : Direction) (r m r' m' : Ctr), nonce force id6 r m dir = nonce force id6 r' m' dir →
    r = r' ∧ m = m') ∧
  ∀ (force : Bool) (id6 : BitVec 48) (dir : Direction) (r m : Ctr),
    (getByte (nonce force id6 r m dir) 11).extractLsb' 0 4 = m.extractLsb' 0 4

/-! ReplayGuard -/

/-- 43_replayguard R237: the record's pair and counters loaded, a new epoch one above `NV_RC` with seed 0, persisted before the
command completes. A record at the last restart counter opens the slot for receiving only, with no NV write. -/
def Obligations.AssocOpenLoadsRecord : Prop :=
  encodeByte .assocOpen = 0x30 ∧ RefusesBadSlot .assocOpen ∧
  ∀ (s : State) (k : Nat) (rec : List Byte), s.blk.argSlot.toNat = k → k < 4 → rec = nvRecord Config.env s.nv k →
    (be24At rec 0 ≠ 0xFFFFFF → ∃ t sl, exec .assocOpen s = .next t ∧
      sl = { s.blk.slot k with
        rxLav := byteAt rec 3 != 0x00, rxLr := be24At rec 4, rxLm := be24At rec 7, txRc := be24At rec 0 + 1, txMc := 0,
        txExh := false, isOpen := true } ∧
      SlotCommandEnds Config.env s t .ok s.blk k sl [.nvRead k, .nvWrite k sl.record] (some sl.record)) ∧
    (be24At rec 0 = 0xFFFFFF → ∃ t, exec .assocOpen s = .next t ∧
      SlotCommandEnds Config.env s t .counterSpaceExhausted s.blk k
        { s.blk.slot k with
          rxLav := byteAt rec 3 != 0x00, rxLr := be24At rec 4, rxLm := be24At rec 7, txRc := 0xFFFFFF, txMc := 0xFFFFFF,
          txExh := true, isOpen := true }
        [.nvRead k] none)

/-- 43_replayguard R239: the counters afresh, with one NV write and no NV read. -/
def Obligations.AssocRekeyStartsAfresh : Prop :=
  encodeByte .assocRekey = 0x31 ∧ RefusesBadSlot .assocRekey ∧
  ∀ (s : State) (k : Nat), s.blk.argSlot.toNat = k → k < 4 →
    ∃ t, exec .assocRekey s = .next t ∧
      SlotCommandEnds Config.env s t .ok s.blk k
        { s.blk.slot k with
          rxLav := false, rxLr := 0, rxLm := 0, txRc := 1, txMc := 0, txExh := false, isOpen := true }
        [.nvWrite k [0x00, 0x00, 0x01, 0x00, 0x00, 0x00, 0x00, 0x00, 0x00, 0x00]]
        (some [0x00, 0x00, 0x01, 0x00, 0x00, 0x00, 0x00, 0x00, 0x00, 0x00])

/-- 43_replayguard R241 and R240: the pair handed out in `ARG_R`, `ARG_M`, and the advance, with an NV write exactly on a
roll-over. -/
def Obligations.TxNextHandsOutPairAndAdvances : Prop :=
  encodeByte .txNext = 0x32 ∧ RefusesBadSlot .txNext ∧ RefusesClosedSlot .txNext ∧
  ∀ (s : State) (k : Nat), s.blk.argSlot.toNat = k → k < 4 → (s.blk.slot k).isOpen = true →
    ((s.blk.slot k).txExh = true → exec .txNext s = .next (Completed s .counterSpaceExhausted s.blk)) ∧
    ((s.blk.slot k).txExh = false → ∃ t, exec .txNext s = .next t ∧
      SlotCommandEnds Config.env s t .ok { s.blk with argR := (s.blk.slot k).txRc, argM := (s.blk.slot k).txMc } k
        (s.blk.slot k).advanced
        (if (s.blk.slot k).rollsOver then [.nvWrite k (s.blk.slot k).advanced.record] else [])
        (if (s.blk.slot k).rollsOver then some (s.blk.slot k).advanced.record else none))

/-- 43_replayguard R244 and R243: the freshness test changes nothing. -/
def Obligations.RxCheckTestsFreshness : Prop :=
  encodeByte .rxCheck = 0x33 ∧ RefusesBadSlot .rxCheck ∧ RefusesClosedSlot .rxCheck ∧
  ∀ (s : State) (k : Nat), s.blk.argSlot.toNat = k → k < 4 → (s.blk.slot k).isOpen = true →
    exec .rxCheck s = .next (Completed s
      (if (s.blk.slot k).rxLav = false ∨ (s.blk.slot k).rxLr.toNat < s.blk.argR.toNat ∨
          (s.blk.slot k).rxLr = s.blk.argR ∧ (s.blk.slot k).rxLm.toNat < s.blk.argM.toNat then .ok
       else .replayRejected)
      s.blk)

/-- 43_replayguard R246 and R245: a fresh pair is recorded and persisted, a stale one refused with no state change. -/
def Obligations.RxCommitRecordsFreshPair : Prop :=
  encodeByte .rxCommit = 0x34 ∧ RefusesBadSlot .rxCommit ∧ RefusesClosedSlot .rxCommit ∧
  ∀ (s : State) (k : Nat), s.blk.argSlot.toNat = k → k < 4 → (s.blk.slot k).isOpen = true →
    ((s.blk.slot k).fresh s.blk.argR s.blk.argM = false →
      exec .rxCommit s = .next (Completed s .replayRejected s.blk)) ∧
    ((s.blk.slot k).fresh s.blk.argR s.blk.argM = true →
      ∃ t sl, exec .rxCommit s = .next t ∧
        sl = { s.blk.slot k with rxLr := s.blk.argR, rxLm := s.blk.argM, rxLav := true } ∧
        SlotCommandEnds Config.env s t .ok s.blk k sl [.nvWrite k sl.record] (some sl.record))

/-- 43_replayguard R248 and R247: the pair `(ARG_R, 0xFFFFFF)` is recorded if it is above the recorded one, or none is; else
nothing changes, and both complete `OK`. -/
def Obligations.RxRatchetOnlyRaises : Prop :=
  encodeByte .rxRatchet = 0x35 ∧ RefusesBadSlot .rxRatchet ∧ RefusesClosedSlot .rxRatchet ∧
  ∀ (s : State) (k : Nat), s.blk.argSlot.toNat = k → k < 4 → (s.blk.slot k).isOpen = true →
    ((s.blk.slot k).rxLav = true → lexGt s.blk.argR 0xFFFFFF (s.blk.slot k).rxLr (s.blk.slot k).rxLm = false →
      exec .rxRatchet s = .next (Completed s .ok s.blk)) ∧
    ((s.blk.slot k).rxLav = false ∨ lexGt s.blk.argR 0xFFFFFF (s.blk.slot k).rxLr (s.blk.slot k).rxLm = true →
      ∃ t sl, exec .rxRatchet s = .next t ∧
        sl = { s.blk.slot k with rxLr := s.blk.argR, rxLm := 0xFFFFFF, rxLav := true } ∧
        SlotCommandEnds Config.env s t .ok s.blk k sl [.nvWrite k sl.record] (some sl.record))

/-- 10_state R44, R54 and 44_secureframe R285: SEC_ENCODE and SEC_DECODE give `InvalidSlot` when `ARG_SLOT` names no slot and
`NotOpen` on a slot that is not open, each with no state change and no request. -/
def Obligations.SecureCommandsRefuseBadOrClosedSlot : Prop :=
  RefusesBadSlot .secEncode ∧ RefusesClosedSlot .secEncode ∧ RefusesBadSlot .secDecode ∧ RefusesClosedSlot .secDecode

/-- 43_replayguard R242, R235 and 10_state R63, third invariant: an exhausted slot refuses every further pair and changes
nothing, TX_NEXT at once, SEC_ENCODE after its length checks (44_secureframe R286); while it agrees with its NV record, no command
but ASSOC_REKEY on it and no host write leaves `TXEXH = 1`; and, for any agents and parameters, it hands out no pair again,
whatever commands, host writes, resets and crashes follow, rekeys of other slots among them, until ASSOC_REKEY on it. -/
def Obligations.ExhaustedSlotKeepsRefusing : Prop :=
  (∀ (s : State) (k : Nat), s.blk.argSlot.toNat = k → k < 4 → (s.blk.slot k).isOpen = true → (s.blk.slot k).txExh = true →
    exec .txNext s = .next (Completed s .counterSpaceExhausted s.blk) ∧
    exec .secEncode s = .next (Completed s
      (if secEncodeTooLong s.blk (s.blk.paddedBody Config.env).length then .invalidLength else .counterSpaceExhausted)
      s.blk)) ∧
  (∀ (s : State) (k : Nat), k < 4 → (s.blk.slot k).isOpen = true → (s.blk.slot k).txExh = true → (s.blk.slot k).Inv →
    NvMatches Config.env k s →
    (∀ i : Instr, i ≠ .assocRekey ∨ s.blk.argSlot.toNat ≠ k →
      ∃ t, exec i s = .next t ∧ (t.blk.slot k).isOpen = true ∧ (t.blk.slot k).txExh = true) ∧
    ∀ (a : HostAddr) (v : Byte),
      ((s.hostWrite a v).blk.slot k).isOpen = true ∧ ((s.hostWrite a v).blk.slot k).txExh = true) ∧
  ∀ (e : Env) (s : State) (k : Nat) (as : List Act), k < 4 → (s.blk.slot k).isOpen = true → (s.blk.slot k).txExh = true →
    (s.blk.slot k).Inv → NvMatches e k s → noRekey e k s as = true → pairsOut e k s as = []

/-- 10_state R63, second invariant: but for ASSOC_REKEY on it, no command lowers the recorded pair of an open slot that agrees
with its NV record. -/
def Obligations.RecordedPairNeverDecreases : Prop :=
  ∀ (i : Instr) (s : State) (k : Nat), i ≠ .assocRekey ∨ s.blk.argSlot.toNat ≠ k → k < 4 → NvMatches Config.env k s →
    (s.blk.slot k).isOpen = true → (s.blk.slot k).rxLav = true →
    ∃ t, exec i s = .next t ∧ (t.blk.slot k).rxLav = true ∧
      lexGt (s.blk.slot k).rxLr (s.blk.slot k).rxLm (t.blk.slot k).rxLr (t.blk.slot k).rxLm = false

/-- 43_replayguard R251: a pair that is not fresh on a slot, as a committed one is, never becomes fresh again on it, whatever
commands, host writes, resets and crashes follow, rekeys of other slots among them, until ASSOC_REKEY on it. -/
def Obligations.AcceptedPairIsNeverFreshAgain : Prop :=
  ∀ (e : Env) (k : Nat) (s : State) (as : List Act) (r m : Ctr),
    k < 4 → NvMatches e k s → (s.blk.slot k).isOpen = true → (s.blk.slot k).fresh r m = false →
    noRekey e k s as = true → ((afterActs e s as).blk.slot k).isOpen = true → ((afterActs e s as).blk.slot k).fresh r m = false

/-- 43_replayguard R236, R245 and 20_memory R95: every command, host write and reset keeps each open slot in agreement with its
NV record. -/
def Obligations.OpenSlotsAgreeWithNv : Prop :=
  ∀ (s : State) (k : Nat), k < 4 → NvMatches Config.env k s →
    (∀ i : Instr, ∃ t, exec i s = .next t ∧ NvMatches Config.env k t) ∧
    (∀ (a : HostAddr) (v : Byte), NvMatches Config.env k (s.hostWrite a v)) ∧
    ∀ landed : Bool, NvMatches Config.env k (s.powerOn landed)

/-- 43_replayguard R250: over the life of a key, the pairs a slot hands out are strictly increasing, across resets and power
loss at any point of a command, and across rekeys of other slots. The premises are R250's: no ASSOC_REKEY of the slot, which would
start the life of another key, and no change of the NV record from outside. -/
def Obligations.HandedOutPairsStrictlyIncrease : Prop :=
  ∀ (e : Env) (k : Nat) (s : State) (as : List Act), k < 4 → NvMatches e k s → (s.blk.slot k).Inv →
    noRekey e k s as = true →
    (pairsOut e k s as).Pairwise (fun p q => lexGt q.1 q.2 p.1 p.2 = true)

/-! SecureFrameCodec -/

/-- 44_secureframe R281 and R282: the padded length is a multiple of 16 and at least 32 or 16, the pad count is at most 31 and
stands in the last byte, and unpadding gives the body back. -/
def Obligations.PaddingRoundTrip : Prop :=
  ∀ (body : List Byte) (pad31 : Bool), (pad body pad31).length % 16 = 0 ∧ (if pad31 then 32 else 16) ≤ (pad body pad31).length ∧
    (pad body pad31).length ≤ max (body.length + 16) (if pad31 then 32 else 16) ∧
    padCount body.length pad31 ≤ 31 ∧ (pad body pad31).length = body.length + padCount body.length pad31 + 1 ∧
    (∀ j : Nat, j < body.length → byteAt (pad body pad31) j = byteAt body j) ∧
    (∀ j : Nat, j < padCount body.length pad31 → byteAt (pad body pad31) (body.length + j) = 0x00) ∧
    (byteAt (pad body pad31) (body.length + padCount body.length pad31)).toNat = padCount body.length pad31 ∧
    unpad (pad body pad31) = some body

/-- 44_secureframe R282: what unpadding rejects and what it gives. -/
def Obligations.UnpadRejectsExactly : Prop :=
  (∀ pt : List Byte, unpad pt = none ↔
    pt = [] ∨ 31 < (byteAt pt (pt.length - 1)).toNat ∨ pt.length < (byteAt pt (pt.length - 1)).toNat + 1) ∧
  ∀ pt body : List Byte, unpad pt = some body →
    body = pt.take body.length ∧ body.length + (byteAt pt (pt.length - 1)).toNat + 1 = pt.length

/-- 44_secureframe R284 and R287: the largest bodies that fit, and the sizes of secure frames. -/
def Obligations.SecureFrameSizes : Prop :=
  ∀ (n L : Nat) (pad31 : Bool) (body : List Byte), body.length = L → n ≤ 8 →
    ((pad body pad31).length ≤ 251 ∧ 3 + n + (pad body pad31).length + 23 ≤ 255 ↔ L ≤ if n ≤ 5 then 223 else 207) ∧
    (pad31 = true → L ≤ 31 → 3 + n + (pad body pad31).length + 23 = 58 + n) ∧
    (pad31 = false → L ≤ 15 → 3 + n + (pad body pad31).length + 23 = 42 + n)

/-- 44_secureframe R284: each length check gives `InvalidLength`, before any counter is used. -/
def Obligations.SecEncodeRejectsInvalidLength : Prop :=
  ∀ (s : State) (k : Nat), s.blk.argSlot.toNat = k → k < 4 → (s.blk.slot k).isOpen = true →
    8 < s.blk.argIdLen.toNat ∨ s.blk.frameType = 0x00 ∨ s.blk.frameType = 0x7F ∨
      251 < (pad (bufSlice (s.blk.pb Config.env) 0 s.blk.pbl) s.blk.pad31).length ∨
      255 < 3 + s.blk.argIdLen.toNat + (pad (bufSlice (s.blk.pb Config.env) 0 s.blk.pbl) s.blk.pad31).length + 23 →
    exec .secEncode s = .next (Completed s .invalidLength s.blk)

/-- 44_secureframe R286 and R285, for any agents with the seed 0, this machine's among them: SEC_ENCODE on a slot that may send.
The pair is consumed whatever the GCM engine answers; on `Fail`, `EncryptionFailed` with `FB_LEN = 0` and FB unchanged;
otherwise the frame in FB. That `draws` counts the request is the model's (assumption log 7). -/
def Obligations.SecEncodeBuildsFrame : Prop :=
  ∀ (e : Env) (s : State) (k : Nat) (sl : Slot) (n fl : Nat) (padded hdr : List Byte) (iv : BitVec 96),
    e.mcSeedBits = 0 → s.blk.argSlot.toNat = k → k < 4 → sl = s.blk.slot k → sl.isOpen = true → sl.txExh = false →
    n = s.blk.argIdLen.toNat → n ≤ 8 → s.blk.frameType ≠ 0x00 → s.blk.frameType ≠ 0x7F →
    padded = pad (bufSlice (s.blk.pb e) 0 s.blk.pbl) s.blk.pad31 → padded.length ≤ 251 →
    fl = 3 + n + padded.length + 23 → fl ≤ 255 →
    hdr = [BitVec.ofNat 8 fl, (0x80 : Byte) ||| s.blk.frameType.setWidth 8,
      sl.txMc.extractLsb' 0 4 ++ BitVec.ofNat 4 n] ++ bytesOf sl.nodeId 0 n ++ [BitVec.ofNat 8 padded.length] →
    IvBytes e.dirForce (getByte sl.nodeId) sl.txRc sl.txMc (decide (sl.role = .source)) iv →
    ∃ t reqs written, execWith e .secEncode s = .next t ∧ (e = Config.env → exec .secEncode s = .next t) ∧
      reqs = (if sl.rollsOver then [.nvWrite k sl.advanced.record] else []) ++ [.gcmEnc sl.key iv hdr padded] ∧
      written = (if sl.rollsOver then some sl.advanced.record else none) ∧
      (gcmEncAnswer e s.blk.draws sl.key iv hdr padded = none →
        SlotCommandEnds e s t .encryptionFailed { s.blk with fbLen := 0, draws := s.blk.draws + 1 } k sl.advanced reqs
          written) ∧
      ∀ ct tag : List Byte, gcmEncAnswer e s.blk.draws sl.key iv hdr padded = some (ct, tag) →
        SlotCommandEnds e s t .ok
          { s.blk with mem := t.blk.mem, fbLen := BitVec.ofNat 9 (fl + 1), draws := s.blk.draws + 1 }
          k sl.advanced reqs written ∧
        bufSlice (t.blk.fb e) 0 (fl + 1) = hdr ++ ct ++ bytes24 sl.txRc ++ bytes24 sl.txMc ++ tag ++ [0x80] ∧
        ∀ a : Nat, fl < a → t.blk.bufByte e a = s.blk.bufByte e a

/-- 44_secureframe R294, R290, R291 and R285, for any agents and parameters, this machine's among them: what each failure of
SEC_DECODE on an open slot gives, all state unchanged. The freshness test comes before the GCM request, which only the last two
issue. `n`, `b` and `tr` are the frame's ID length, body length and trailer index (41_framecodec R187). -/
def Obligations.SecDecodeFailuresChangeNothing : Prop :=
  (∀ s : State, exec .secDecode s = execWith Config.env .secDecode s) ∧
  ∀ (e : Env) (s : State) (k : Nat) (sl : Slot) (F : Nat → Byte) (n b tr : Nat) (R M : Ctr) (iv : BitVec 96)
    (ad ct tag : List Byte),
    s.blk.argSlot.toNat = k → k < 4 → sl = s.blk.slot k → sl.isOpen = true → F = s.blk.fb e →
    n = (F 2).toNat % 16 → b = (F (3 + n)).toNat → tr = 4 + n + b →
    R = F tr ++ F (tr + 1) ++ F (tr + 2) → M = F (tr + 3) ++ F (tr + 4) ++ F (tr + 5) →
    IvBytes e.dirForce (fun j => if j < n then F (3 + j) else getByte sl.nodeId j) R M (decide (sl.role = .sink)) iv →
    ad = bufSlice F 0 (4 + n) → ct = bufSlice F (4 + n) b → tag = bufSlice F (tr + 6) 16 →
    (s.blk.fbValid e = false ∨ (F 1).getLsbD 7 = false ∨ (F 0).toNat ≠ tr + 22 ∨ F (F 0).toNat ≠ 0x80 →
      execWith e .secDecode s = .next (Completed s .malformedFrame s.blk)) ∧
    (s.blk.fbValid e = true → (F 1).getLsbD 7 = true → (F 0).toNat = tr + 22 → F (F 0).toNat = 0x80 →
      (sl.fresh R M = false → execWith e .secDecode s = .next (Completed s .replayRejected s.blk)) ∧
      (sl.fresh R M = true →
        (gcmDecAnswer e sl.key iv ad ct tag = none →
          execWith e .secDecode s = .next { Completed s .authenticationFailed s.blk with
            requests := s.requests ++ [.gcmDec sl.key iv ad ct tag] }) ∧
        ∀ pt : List Byte, gcmDecAnswer e sl.key iv ad ct tag = some pt → unpad pt = none →
          execWith e .secDecode s = .next { Completed s .paddingInvalid s.blk with
            requests := s.requests ++ [.gcmDec sl.key iv ad ct tag] }))

/-- 44_secureframe R294, R290, R291 and R296, for any agents and parameters, this machine's among them: a valid, secure, fresh
frame that authenticates and unpads is committed and delivered: the pair recorded and persisted, the body in PB with its length,
the fields in `D_*`, FB unchanged. `n`, `b` and `tr` are the frame's ID length, body length and trailer index (41_framecodec
R187). -/
def Obligations.SecDecodeDeliversBody : Prop :=
  ∀ (e : Env) (s : State) (k : Nat) (sl sl' : Slot) (F : Nat → Byte) (n b tr : Nat) (R M : Ctr) (iv : BitVec 96)
    (ad ct tag pt body : List Byte),
    s.blk.argSlot.toNat = k → k < 4 → sl = s.blk.slot k → sl.isOpen = true → F = s.blk.fb e →
    n = (F 2).toNat % 16 → b = (F (3 + n)).toNat → tr = 4 + n + b →
    R = F tr ++ F (tr + 1) ++ F (tr + 2) → M = F (tr + 3) ++ F (tr + 4) ++ F (tr + 5) →
    IvBytes e.dirForce (fun j => if j < n then F (3 + j) else getByte sl.nodeId j) R M (decide (sl.role = .sink)) iv →
    ad = bufSlice F 0 (4 + n) → ct = bufSlice F (4 + n) b → tag = bufSlice F (tr + 6) 16 →
    s.blk.fbValid e = true → (F 1).getLsbD 7 = true → (F 0).toNat = tr + 22 → F (F 0).toNat = 0x80 →
    sl.fresh R M = true → gcmDecAnswer e sl.key iv ad ct tag = some pt → unpad pt = some body →
    sl' = { sl with rxLr := R, rxLm := M, rxLav := true } →
    ∃ t, execWith e .secDecode s = .next t ∧ (e = Config.env → exec .secDecode s = .next t) ∧
      t = { Completed s .ok
          { s.blk with
            mem := t.blk.mem, slots := t.blk.slots, pbLen := BitVec.ofNat 9 body.length, dec := decodeFields F } with
        nv := t.nv
        requests := s.requests ++ [.gcmDec sl.key iv ad ct tag, .nvWrite k sl'.record] } ∧
      (∀ j : Nat, t.blk.slot j = if j = k then sl' else s.blk.slot j) ∧
      (∀ j : Nat, nvRecord e t.nv j = if j = k then sl'.record else nvRecord e s.nv j) ∧
      bufSlice (t.blk.pb e) 0 body.length = body ∧
      ∀ a : Nat, a < 0x100 ∨ 0x100 + body.length ≤ a → t.blk.bufByte e a = s.blk.bufByte e a

/-- 44_secureframe R295: the secure round trip, for every GCM engine with `GcmCorrect` whose encryptions do not fail. -/
def Obligations.SecureFrameRoundTrip : Prop :=
  ∀ (e : Env) (s u t : State) (k d : Nat), GcmCorrect e → GcmAnswersOk e →
    s.blk.argSlot.toNat = k → k < 4 → (s.blk.slot k).isOpen = true → (s.blk.slot k).txExh = false →
    s.blk.argIdLen.toNat ≤ 8 → s.blk.frameType ≠ 0x00 → s.blk.frameType ≠ 0x7F → s.blk.pbl ≤ 207 →
    t = commandEnd e .secEncode s →
    u.blk.argSlot.toNat = d → d < 4 → (u.blk.slot d).isOpen = true →
    (u.blk.slot d).key = (s.blk.slot k).key → (u.blk.slot d).nodeId = (s.blk.slot k).nodeId →
    (u.blk.slot d).role ≠ (s.blk.slot k).role →
    (u.blk.slot d).fresh (s.blk.slot k).txRc (s.blk.slot k).txMc = true →
    u.blk.fbLen = t.blk.fbLen → (∀ i : Nat, i < t.blk.fbLen.toNat → u.blk.fb e i = t.blk.fb e i) →
    (t.blk.fb e 0).toNat ≤ u.blk.maxFl.toNat →
    t.result = .ok ∧ (commandEnd e .secDecode u).result = .ok ∧
      (commandEnd e .secDecode u).blk.pbLen.toNat = s.blk.pbl ∧
      bufSlice ((commandEnd e .secDecode u).blk.pb e) 0 s.blk.pbl = bufSlice (s.blk.pb e) 0 s.blk.pbl

/-! The machine as a whole -/

/-- 43_replayguard R235, 20_memory and 45_system R322: every step, whatever event it takes, keeps the invariant: both memories
canonical, no slot closed and exhausted, an exhausted slot at the last pair, `CMD` naming the running command. -/
def Obligations.StepKeepsInvariant : Prop := ∀ s : State, s.Inv → ∃ t, step s = .next t ∧ t.Inv

/-- The invariant holds after reset. -/
def Obligations.ResetMeetsInvariant : Prop := State.reset.Inv

/-- 45_system R321: every interleaving of Host accesses, Core steps and agents' answers that completes the command gives the
same end state as the command as one transformation, but for `WERR`, set by a dropped write, and the host port. -/
def Obligations.InterleavingsAgreeWithBigStep : Prop :=
  ∀ (i : Instr) (s : State) (evs : List Event) (t : State), s.phase = .busy (encodeByte i) 0 none →
    (∀ ev ∈ evs, Event.ofCommand ev = true) →
    interleave s evs = some t → t.isBusy = false →
    ∃ u, exec i s = .next u ∧ t = { u with werr := t.werr, rdata := t.rdata } ∧
      t.werr = (s.werr || evs.any fun ev => match ev with | .write _ _ => true | _ => false)

/-- 45_system R324: every started command completes within five Core steps and answers, if each request is answered. -/
def Obligations.CommandsCompleteInBoundedSteps : Prop :=
  ∀ (i : Instr) (s : State), s.phase = .busy (encodeByte i) 0 none →
    ∃ evs t, evs.length ≤ 5 ∧ (∀ ev ∈ evs, ev = .core ∨ ev = .nvAnswer ∨ ev = .gcmAnswer) ∧
      interleave s evs = some t ∧ t.isBusy = false

/-- 10_state R59: nothing a command does depends on what `STG` held before it started. -/
def Obligations.StagingContentsDoNotMatter : Prop :=
  ∀ (i : Instr) (s : State) (g : Staging), exec i { s with blk := { s.blk with stg := g } } = exec i s
end

