-- ==== Sys2Proof/Laws/State.lean ====
section
/-! SUPPORT. What the named updates of a state and of a block leave, one lemma per field per update, true by rfl. -/

namespace Sys2Proof.Machine

@[simp] theorem State.startCommand_phase (s : State) (v : Byte) : (s.startCommand v).phase = .busy v 0 none := rfl
@[simp] theorem State.startCommand_cmd (s : State) (v : Byte) : (s.startCommand v).cmd = v := rfl
@[simp] theorem State.startCommand_done (s : State) (v : Byte) : (s.startCommand v).done = false := rfl
@[simp] theorem State.startCommand_werr (s : State) (v : Byte) : (s.startCommand v).werr = s.werr := rfl
@[simp] theorem State.startCommand_result (s : State) (v : Byte) : (s.startCommand v).result = s.result := rfl
@[simp] theorem State.startCommand_assocSel (s : State) (v : Byte) : (s.startCommand v).assocSel = s.assocSel := rfl
@[simp] theorem State.startCommand_blk (s : State) (v : Byte) : (s.startCommand v).blk = s.blk := rfl
@[simp] theorem State.startCommand_nv (s : State) (v : Byte) : (s.startCommand v).nv = s.nv := rfl
@[simp] theorem State.startCommand_requests (s : State) (v : Byte) : (s.startCommand v).requests = [] := rfl
@[simp] theorem State.startCommand_rdata (s : State) (v : Byte) : (s.startCommand v).rdata = s.rdata := rfl
@[simp] theorem State.startCommand_inputs (s : State) (v : Byte) : (s.startCommand v).inputs = s.inputs := rfl

@[simp] theorem State.complete_phase (s : State) (c : ResultCode) (b : Block) : (s.complete c b).phase = .idle := rfl
@[simp] theorem State.complete_cmd (s : State) (c : ResultCode) (b : Block) : (s.complete c b).cmd = s.cmd := rfl
@[simp] theorem State.complete_done (s : State) (c : ResultCode) (b : Block) : (s.complete c b).done = true := rfl
@[simp] theorem State.complete_werr (s : State) (c : ResultCode) (b : Block) : (s.complete c b).werr = s.werr := rfl
@[simp] theorem State.complete_result (s : State) (c : ResultCode) (b : Block) : (s.complete c b).result = c := rfl
@[simp] theorem State.complete_assocSel (s : State) (c : ResultCode) (b : Block) : (s.complete c b).assocSel = s.assocSel := rfl
@[simp] theorem State.complete_blk (s : State) (c : ResultCode) (b : Block) : (s.complete c b).blk = { b with stg := Staging.empty } := rfl
@[simp] theorem State.complete_nv (s : State) (c : ResultCode) (b : Block) : (s.complete c b).nv = s.nv := rfl
@[simp] theorem State.complete_requests (s : State) (c : ResultCode) (b : Block) : (s.complete c b).requests = s.requests := rfl
@[simp] theorem State.complete_rdata (s : State) (c : ResultCode) (b : Block) : (s.complete c b).rdata = s.rdata := rfl
@[simp] theorem State.complete_inputs (s : State) (c : ResultCode) (b : Block) : (s.complete c b).inputs = s.inputs := rfl

@[simp] theorem State.issue_phase (s : State) (q : Request) (b : Block) : (s.issue q b).phase = s.phase := rfl
@[simp] theorem State.issue_cmd (s : State) (q : Request) (b : Block) : (s.issue q b).cmd = s.cmd := rfl
@[simp] theorem State.issue_done (s : State) (q : Request) (b : Block) : (s.issue q b).done = s.done := rfl
@[simp] theorem State.issue_werr (s : State) (q : Request) (b : Block) : (s.issue q b).werr = s.werr := rfl
@[simp] theorem State.issue_result (s : State) (q : Request) (b : Block) : (s.issue q b).result = s.result := rfl
@[simp] theorem State.issue_assocSel (s : State) (q : Request) (b : Block) : (s.issue q b).assocSel = s.assocSel := rfl
@[simp] theorem State.issue_blk (s : State) (q : Request) (b : Block) : (s.issue q b).blk = b := rfl
@[simp] theorem State.issue_nv (s : State) (q : Request) (b : Block) : (s.issue q b).nv = s.nv := rfl
@[simp] theorem State.issue_requests (s : State) (q : Request) (b : Block) : (s.issue q b).requests = s.requests ++ [q] := rfl
@[simp] theorem State.issue_rdata (s : State) (q : Request) (b : Block) : (s.issue q b).rdata = s.rdata := rfl
@[simp] theorem State.issue_inputs (s : State) (q : Request) (b : Block) : (s.issue q b).inputs = s.inputs := rfl

@[simp] theorem State.withStg_phase (s : State) (g : Staging) : (s.withStg g).phase = s.phase := rfl
@[simp] theorem State.withStg_cmd (s : State) (g : Staging) : (s.withStg g).cmd = s.cmd := rfl
@[simp] theorem State.withStg_done (s : State) (g : Staging) : (s.withStg g).done = s.done := rfl
@[simp] theorem State.withStg_werr (s : State) (g : Staging) : (s.withStg g).werr = s.werr := rfl
@[simp] theorem State.withStg_result (s : State) (g : Staging) : (s.withStg g).result = s.result := rfl
@[simp] theorem State.withStg_assocSel (s : State) (g : Staging) : (s.withStg g).assocSel = s.assocSel := rfl
@[simp] theorem State.withStg_blk (s : State) (g : Staging) : (s.withStg g).blk = { s.blk with stg := g } := rfl
@[simp] theorem State.withStg_nv (s : State) (g : Staging) : (s.withStg g).nv = s.nv := rfl
@[simp] theorem State.withStg_requests (s : State) (g : Staging) : (s.withStg g).requests = s.requests := rfl
@[simp] theorem State.withStg_rdata (s : State) (g : Staging) : (s.withStg g).rdata = s.rdata := rfl
@[simp] theorem State.withStg_inputs (s : State) (g : Staging) : (s.withStg g).inputs = s.inputs := rfl

@[simp] theorem State.clearStatus_phase (s : State) (v : Byte) : (s.clearStatus v).phase = s.phase := rfl
@[simp] theorem State.clearStatus_cmd (s : State) (v : Byte) : (s.clearStatus v).cmd = s.cmd := rfl
@[simp] theorem State.clearStatus_done (s : State) (v : Byte) : (s.clearStatus v).done = (s.done && !v.getLsbD 1) := rfl
@[simp] theorem State.clearStatus_werr (s : State) (v : Byte) : (s.clearStatus v).werr = (s.werr && !v.getLsbD 3) := rfl
@[simp] theorem State.clearStatus_result (s : State) (v : Byte) : (s.clearStatus v).result = s.result := rfl
@[simp] theorem State.clearStatus_assocSel (s : State) (v : Byte) : (s.clearStatus v).assocSel = s.assocSel := rfl
@[simp] theorem State.clearStatus_blk (s : State) (v : Byte) : (s.clearStatus v).blk = s.blk := rfl
@[simp] theorem State.clearStatus_nv (s : State) (v : Byte) : (s.clearStatus v).nv = s.nv := rfl
@[simp] theorem State.clearStatus_requests (s : State) (v : Byte) : (s.clearStatus v).requests = s.requests := rfl
@[simp] theorem State.clearStatus_rdata (s : State) (v : Byte) : (s.clearStatus v).rdata = s.rdata := rfl
@[simp] theorem State.clearStatus_inputs (s : State) (v : Byte) : (s.clearStatus v).inputs = s.inputs := rfl

@[simp] theorem Block.setSlot_ie (b : Block) (k : Nat) (sl : Slot) : (b.setSlot k sl).ie = b.ie := rfl
@[simp] theorem Block.setSlot_pad31 (b : Block) (k : Nat) (sl : Slot) : (b.setSlot k sl).pad31 = b.pad31 := rfl
@[simp] theorem Block.setSlot_fbLen (b : Block) (k : Nat) (sl : Slot) : (b.setSlot k sl).fbLen = b.fbLen := rfl
@[simp] theorem Block.setSlot_pbLen (b : Block) (k : Nat) (sl : Slot) : (b.setSlot k sl).pbLen = b.pbLen := rfl
@[simp] theorem Block.setSlot_argType (b : Block) (k : Nat) (sl : Slot) : (b.setSlot k sl).argType = b.argType := rfl
@[simp] theorem Block.setSlot_argFlags (b : Block) (k : Nat) (sl : Slot) : (b.setSlot k sl).argFlags = b.argFlags := rfl
@[simp] theorem Block.setSlot_argSeq (b : Block) (k : Nat) (sl : Slot) : (b.setSlot k sl).argSeq = b.argSeq := rfl
@[simp] theorem Block.setSlot_argIdLen (b : Block) (k : Nat) (sl : Slot) : (b.setSlot k sl).argIdLen = b.argIdLen := rfl
@[simp] theorem Block.setSlot_argBl (b : Block) (k : Nat) (sl : Slot) : (b.setSlot k sl).argBl = b.argBl := rfl
@[simp] theorem Block.setSlot_argSlot (b : Block) (k : Nat) (sl : Slot) : (b.setSlot k sl).argSlot = b.argSlot := rfl
@[simp] theorem Block.setSlot_maxFl (b : Block) (k : Nat) (sl : Slot) : (b.setSlot k sl).maxFl = b.maxFl := rfl
@[simp] theorem Block.setSlot_argData (b : Block) (k : Nat) (sl : Slot) : (b.setSlot k sl).argData = b.argData := rfl
@[simp] theorem Block.setSlot_crcState (b : Block) (k : Nat) (sl : Slot) : (b.setSlot k sl).crcState = b.crcState := rfl
@[simp] theorem Block.setSlot_crcOut (b : Block) (k : Nat) (sl : Slot) : (b.setSlot k sl).crcOut = b.crcOut := rfl
@[simp] theorem Block.setSlot_argR (b : Block) (k : Nat) (sl : Slot) : (b.setSlot k sl).argR = b.argR := rfl
@[simp] theorem Block.setSlot_argM (b : Block) (k : Nat) (sl : Slot) : (b.setSlot k sl).argM = b.argM := rfl
@[simp] theorem Block.setSlot_argId (b : Block) (k : Nat) (sl : Slot) : (b.setSlot k sl).argId = b.argId := rfl
@[simp] theorem Block.setSlot_iv (b : Block) (k : Nat) (sl : Slot) : (b.setSlot k sl).iv = b.iv := rfl
@[simp] theorem Block.setSlot_dec (b : Block) (k : Nat) (sl : Slot) : (b.setSlot k sl).dec = b.dec := rfl
@[simp] theorem Block.setSlot_slots (b : Block) (k : Nat) (sl : Slot) : (b.setSlot k sl).slots = b.slots.setIfInBounds k sl := rfl
@[simp] theorem Block.setSlot_mem (b : Block) (k : Nat) (sl : Slot) : (b.setSlot k sl).mem = b.mem := rfl
@[simp] theorem Block.setSlot_stg (b : Block) (k : Nat) (sl : Slot) : (b.setSlot k sl).stg = b.stg := rfl
@[simp] theorem Block.setSlot_draws (b : Block) (k : Nat) (sl : Slot) : (b.setSlot k sl).draws = b.draws := rfl
@[simp] theorem Block.setSlot_boots (b : Block) (k : Nat) (sl : Slot) : (b.setSlot k sl).boots = b.boots := rfl

@[simp] theorem Block.writeFb_ie (b : Block) (i : Nat) (l : List Byte) : (b.writeFb i l).ie = b.ie := rfl
@[simp] theorem Block.writeFb_pad31 (b : Block) (i : Nat) (l : List Byte) : (b.writeFb i l).pad31 = b.pad31 := rfl
@[simp] theorem Block.writeFb_fbLen (b : Block) (i : Nat) (l : List Byte) : (b.writeFb i l).fbLen = b.fbLen := rfl
@[simp] theorem Block.writeFb_pbLen (b : Block) (i : Nat) (l : List Byte) : (b.writeFb i l).pbLen = b.pbLen := rfl
@[simp] theorem Block.writeFb_argType (b : Block) (i : Nat) (l : List Byte) : (b.writeFb i l).argType = b.argType := rfl
@[simp] theorem Block.writeFb_argFlags (b : Block) (i : Nat) (l : List Byte) : (b.writeFb i l).argFlags = b.argFlags := rfl
@[simp] theorem Block.writeFb_argSeq (b : Block) (i : Nat) (l : List Byte) : (b.writeFb i l).argSeq = b.argSeq := rfl
@[simp] theorem Block.writeFb_argIdLen (b : Block) (i : Nat) (l : List Byte) : (b.writeFb i l).argIdLen = b.argIdLen := rfl
@[simp] theorem Block.writeFb_argBl (b : Block) (i : Nat) (l : List Byte) : (b.writeFb i l).argBl = b.argBl := rfl
@[simp] theorem Block.writeFb_argSlot (b : Block) (i : Nat) (l : List Byte) : (b.writeFb i l).argSlot = b.argSlot := rfl
@[simp] theorem Block.writeFb_maxFl (b : Block) (i : Nat) (l : List Byte) : (b.writeFb i l).maxFl = b.maxFl := rfl
@[simp] theorem Block.writeFb_argData (b : Block) (i : Nat) (l : List Byte) : (b.writeFb i l).argData = b.argData := rfl
@[simp] theorem Block.writeFb_crcState (b : Block) (i : Nat) (l : List Byte) : (b.writeFb i l).crcState = b.crcState := rfl
@[simp] theorem Block.writeFb_crcOut (b : Block) (i : Nat) (l : List Byte) : (b.writeFb i l).crcOut = b.crcOut := rfl
@[simp] theorem Block.writeFb_argR (b : Block) (i : Nat) (l : List Byte) : (b.writeFb i l).argR = b.argR := rfl
@[simp] theorem Block.writeFb_argM (b : Block) (i : Nat) (l : List Byte) : (b.writeFb i l).argM = b.argM := rfl
@[simp] theorem Block.writeFb_argId (b : Block) (i : Nat) (l : List Byte) : (b.writeFb i l).argId = b.argId := rfl
@[simp] theorem Block.writeFb_iv (b : Block) (i : Nat) (l : List Byte) : (b.writeFb i l).iv = b.iv := rfl
@[simp] theorem Block.writeFb_dec (b : Block) (i : Nat) (l : List Byte) : (b.writeFb i l).dec = b.dec := rfl
@[simp] theorem Block.writeFb_slots (b : Block) (i : Nat) (l : List Byte) : (b.writeFb i l).slots = b.slots := rfl
@[simp] theorem Block.writeFb_mem (b : Block) (i : Nat) (l : List Byte) : (b.writeFb i l).mem = b.mem.writeBytes i l := rfl
@[simp] theorem Block.writeFb_stg (b : Block) (i : Nat) (l : List Byte) : (b.writeFb i l).stg = b.stg := rfl
@[simp] theorem Block.writeFb_draws (b : Block) (i : Nat) (l : List Byte) : (b.writeFb i l).draws = b.draws := rfl
@[simp] theorem Block.writeFb_boots (b : Block) (i : Nat) (l : List Byte) : (b.writeFb i l).boots = b.boots := rfl

@[simp] theorem Block.writePb_ie (b : Block) (l : List Byte) : (b.writePb l).ie = b.ie := rfl
@[simp] theorem Block.writePb_pad31 (b : Block) (l : List Byte) : (b.writePb l).pad31 = b.pad31 := rfl
@[simp] theorem Block.writePb_fbLen (b : Block) (l : List Byte) : (b.writePb l).fbLen = b.fbLen := rfl
@[simp] theorem Block.writePb_pbLen (b : Block) (l : List Byte) : (b.writePb l).pbLen = b.pbLen := rfl
@[simp] theorem Block.writePb_argType (b : Block) (l : List Byte) : (b.writePb l).argType = b.argType := rfl
@[simp] theorem Block.writePb_argFlags (b : Block) (l : List Byte) : (b.writePb l).argFlags = b.argFlags := rfl
@[simp] theorem Block.writePb_argSeq (b : Block) (l : List Byte) : (b.writePb l).argSeq = b.argSeq := rfl
@[simp] theorem Block.writePb_argIdLen (b : Block) (l : List Byte) : (b.writePb l).argIdLen = b.argIdLen := rfl
@[simp] theorem Block.writePb_argBl (b : Block) (l : List Byte) : (b.writePb l).argBl = b.argBl := rfl
@[simp] theorem Block.writePb_argSlot (b : Block) (l : List Byte) : (b.writePb l).argSlot = b.argSlot := rfl
@[simp] theorem Block.writePb_maxFl (b : Block) (l : List Byte) : (b.writePb l).maxFl = b.maxFl := rfl
@[simp] theorem Block.writePb_argData (b : Block) (l : List Byte) : (b.writePb l).argData = b.argData := rfl
@[simp] theorem Block.writePb_crcState (b : Block) (l : List Byte) : (b.writePb l).crcState = b.crcState := rfl
@[simp] theorem Block.writePb_crcOut (b : Block) (l : List Byte) : (b.writePb l).crcOut = b.crcOut := rfl
@[simp] theorem Block.writePb_argR (b : Block) (l : List Byte) : (b.writePb l).argR = b.argR := rfl
@[simp] theorem Block.writePb_argM (b : Block) (l : List Byte) : (b.writePb l).argM = b.argM := rfl
@[simp] theorem Block.writePb_argId (b : Block) (l : List Byte) : (b.writePb l).argId = b.argId := rfl
@[simp] theorem Block.writePb_iv (b : Block) (l : List Byte) : (b.writePb l).iv = b.iv := rfl
@[simp] theorem Block.writePb_dec (b : Block) (l : List Byte) : (b.writePb l).dec = b.dec := rfl
@[simp] theorem Block.writePb_slots (b : Block) (l : List Byte) : (b.writePb l).slots = b.slots := rfl
@[simp] theorem Block.writePb_mem (b : Block) (l : List Byte) : (b.writePb l).mem = b.mem.writeBytes pbBase l := rfl
@[simp] theorem Block.writePb_stg (b : Block) (l : List Byte) : (b.writePb l).stg = b.stg := rfl
@[simp] theorem Block.writePb_draws (b : Block) (l : List Byte) : (b.writePb l).draws = b.draws := rfl
@[simp] theorem Block.writePb_boots (b : Block) (l : List Byte) : (b.writePb l).boots = b.boots := rfl

/-- The dispatch runs each command's rule with this hardware's agents and parameters. -/
theorem exec_eq_execWith (i : Instr) (s : State) : exec i s = execWith Config.env i s := by
  cases i <;> rfl

end Sys2Proof.Machine
end

