-- ==== Sys2Proof/Laws/Memory.lean ====
section
/-! SUPPORT. Memory: read after write, the canonical form, and reads of byte sequences. -/

namespace Sys2Proof.Machine

@[simp] theorem Memory.get_nil (x : Nat) : Memory.get [] x = none := rfl

/-- Every address of a canonical memory's tail is above its head. -/
theorem Memory.lt_of_wf_cons {c : Host.Cell} {m : Memory} (h : Memory.wf (c :: m) = true) :
    Memory.wf m = true ∧ ∀ d ∈ m, c.1 < d.1 := by
  induction m generalizing c with
  | nil => simp [Memory.wf]
  | cons d m ih =>
    obtain ⟨a, v⟩ := c; obtain ⟨a', v'⟩ := d
    simp only [Memory.wf, Bool.and_eq_true, decide_eq_true_eq] at h
    refine ⟨h.2, fun e he => ?_⟩
    rcases List.mem_cons.1 he with rfl | he
    · exact h.1
    · exact Nat.lt_trans h.1 ((ih h.2).2 e he)

theorem Memory.wf_cons {c : Host.Cell} {m : Memory} (hm : Memory.wf m = true) (h : ∀ d ∈ m, c.1 < d.1) :
    Memory.wf (c :: m) = true := by
  obtain ⟨a, v⟩ := c
  cases m with
  | nil => rfl
  | cons d m =>
    obtain ⟨a', v'⟩ := d
    have := h (a', v') (by simp)
    simp [Memory.wf, hm, this]

/-- The addresses of a written memory are the old ones and the one written. -/
theorem Memory.mem_set {m : Memory} {x : Nat} {v : Byte} {d : Host.Cell} (h : d ∈ m.set x v) : d.1 = x ∨ d ∈ m := by
  induction m with
  | nil => simp [Memory.set] at h; exact .inl (by rw [h])
  | cons c m ih =>
    obtain ⟨a, u⟩ := c
    simp only [Memory.set] at h
    split at h
    · rcases List.mem_cons.1 h with rfl | h
      · exact .inl rfl
      · exact .inr h
    · split at h
      · rcases List.mem_cons.1 h with rfl | h
        · exact .inl rfl
        · exact .inr (List.mem_cons_of_mem _ h)
      · rcases List.mem_cons.1 h with rfl | h
        · exact .inr (by simp)
        · rcases ih h with h | h
          · exact .inl h
          · exact .inr (List.mem_cons_of_mem _ h)

/-- A write keeps the canonical form. -/
theorem Memory.wf_set {m : Memory} (h : m.wf = true) (x : Nat) (v : Byte) : (m.set x v).wf = true := by
  induction m with
  | nil => rfl
  | cons c m ih =>
    obtain ⟨hm, hlt⟩ := Memory.lt_of_wf_cons h
    obtain ⟨a, u⟩ := c
    simp only [Memory.set]
    split
    · refine Memory.wf_cons h fun d hd => ?_
      rcases List.mem_cons.1 hd with rfl | hd
      · assumption
      · exact Nat.lt_trans ‹_› (hlt d hd)
    · split
      · exact Memory.wf_cons hm fun d hd => by have := hlt d hd; simp_all
      · refine Memory.wf_cons (ih hm) fun d hd => ?_
        rcases Memory.mem_set hd with hd | hd
        · simp only at hd ⊢; omega
        · exact hlt d hd

/-- Writing a byte sequence keeps the canonical form. -/
theorem Memory.wf_writeBytes {m : Memory} (h : m.wf = true) (x : Nat) (l : List Byte) : (m.writeBytes x l).wf = true := by
  induction l generalizing m x with
  | nil => exact h
  | cons v vs ih => exact ih (Memory.wf_set h x v) (x + 1)

/-- Read after write, anywhere, of a memory in any form. -/
theorem Memory.get_set (m : Memory) (x : Nat) (v : Byte) (y : Nat) :
    (m.set x v).get y = if y = x then some v else m.get y := by
  induction m with
  | nil => by_cases h : y = x <;> simp [Memory.set, Memory.get, Memory.unlisted, h]
  | cons c m ih =>
    obtain ⟨a, u⟩ := c
    rcases Nat.lt_trichotomy x a with hl | he | hg
    · rw [Memory.set, if_pos hl]
      by_cases hy : y = x
      · simp [Memory.get, hy]
      · rw [if_neg hy, Memory.get, if_neg hy]
        by_cases hyx : y < x
        · simp [Memory.get, hyx, show y < a by omega, show y ≠ a by omega]
        · rw [if_neg hyx]
    · subst he
      rw [Memory.set, if_neg (Nat.lt_irrefl x), if_pos rfl]
      by_cases hy : y = x <;> simp [Memory.get, hy]
    · rw [Memory.set, if_neg (by omega), if_neg (by omega), Memory.get, Memory.get, ih]
      split_ifs <;> first | rfl | omega

/-- Read after a write of a byte sequence. -/
theorem Memory.get_writeBytes (m : Memory) (x : Nat) (l : List Byte) (y : Nat) :
    (m.writeBytes x l).get y = if h : x ≤ y ∧ y < x + l.length then some (l[y - x]'(by omega)) else m.get y := by
  induction l generalizing m x with
  | nil => simp [Memory.writeBytes]
  | cons v vs ih =>
    rw [Memory.writeBytes, ih, Memory.get_set]
    by_cases h : x + 1 ≤ y ∧ y < x + 1 + vs.length
    · have h' : x ≤ y ∧ y < x + (v :: vs).length := by simp only [List.length_cons]; omega
      rw [dif_pos h, dif_pos h']
      have e : y - x = (y - (x + 1)) + 1 := by omega
      simp [e]
    · rw [dif_neg h]
      by_cases h2 : y = x
      · subst h2; simp
      · rw [if_neg h2, dif_neg (by simp only [List.length_cons]; omega)]

/-- A canonical memory is determined by what its addresses hold. -/
theorem Memory.ext_of_get {m m' : Memory} (h : m.wf = true) (h' : m'.wf = true) (hg : ∀ x, m.get x = m'.get x) :
    m = m' := by
  induction m generalizing m' with
  | nil =>
    cases m' with
    | nil => rfl
    | cons c m' => obtain ⟨a, v⟩ := c; have := hg a; simp [Memory.get, Memory.unlisted] at this
  | cons c m ih =>
    obtain ⟨a, v⟩ := c
    cases m' with
    | nil => have := hg a; simp [Memory.get, Memory.unlisted] at this
    | cons c' m' =>
      obtain ⟨a', v'⟩ := c'
      obtain ⟨hm, hlt⟩ := Memory.lt_of_wf_cons h
      obtain ⟨hm', hlt'⟩ := Memory.lt_of_wf_cons h'
      have ha : a = a' := by
        rcases Nat.lt_trichotomy a a' with hl | he | hl
        · have := hg a; simp [Memory.get, Memory.unlisted, hl, Nat.ne_of_lt hl] at this
        · exact he
        · have := hg a'; simp [Memory.get, Memory.unlisted, hl, Nat.ne_of_lt hl] at this
      subst ha
      have hv : v = v' := by have := hg a; simpa [Memory.get] using this
      subst hv
      congr 1
      refine ih hm hm' fun x => ?_
      have hx := hg x
      have none_of : ∀ {n : Memory}, (∀ d ∈ n, a < d.1) → x ≤ a → n.get x = none := by
        intro n hn hle
        cases n with
        | nil => rfl
        | cons d n =>
          obtain ⟨b, u⟩ := d
          have : a < b := hn (b, u) (by simp)
          simp only [Memory.get, Memory.unlisted]
          rw [if_neg (by omega), if_pos (by omega)]
      by_cases hle : x ≤ a
      · rw [none_of hlt hle, none_of hlt' hle]
      · simp only [Memory.get] at hx
        rwa [if_neg (by omega), if_neg (by omega), if_neg (by omega), if_neg (by omega)] at hx

/-- A write below a bound keeps the addresses below it. -/
theorem Memory.below_set {n : Nat} {m : Memory} (h : m.below n = true) {x : Nat} (hx : x < n) (v : Byte) :
    (m.set x v).below n = true := by
  simp only [Memory.below, List.all_eq_true, decide_eq_true_eq] at h ⊢
  intro d hd
  rcases Memory.mem_set hd with e | hd
  · omega
  · exact h d hd

/-- A write of bytes that end below a bound keeps the addresses below it. -/
theorem Memory.below_writeBytes {n : Nat} {m : Memory} (h : m.below n = true) {x : Nat} {l : List Byte}
    (hx : x + l.length ≤ n) : (m.writeBytes x l).below n = true := by
  induction l generalizing m x with
  | nil => exact h
  | cons v vs ih =>
    simp only [List.length_cons] at hx
    exact ih (Memory.below_set h (by omega) v) (by omega)

/-- What a buffer location reads as after FB is written. -/
theorem bufByte_writeFb (e : Env) (b : Block) (i : Nat) (l : List Byte) (a : Nat) :
    (b.writeFb i l).bufByte e a = if h : i ≤ a ∧ a < i + l.length then l[a - i]'(by omega) else b.bufByte e a := by
  simp only [Block.bufByte, Block.writeFb_mem, Block.writeFb_boots, Memory.get_writeBytes]
  split <;> rfl

/-- What a buffer location reads as after PB is written. -/
theorem bufByte_writePb (e : Env) (b : Block) (l : List Byte) (a : Nat) :
    (b.writePb l).bufByte e a =
      if h : pbBase ≤ a ∧ a < pbBase + l.length then l[a - pbBase]'(by omega) else b.bufByte e a := by
  simp only [Block.bufByte, Block.writePb_mem, Block.writePb_boots, Memory.get_writeBytes]
  split <;> rfl

@[simp] theorem length_bufSlice (f : Nat → Byte) (i n : Nat) : (bufSlice f i n).length = n := by simp [bufSlice]

@[simp] theorem getElem_bufSlice (f : Nat → Byte) (i n j : Nat) (h : j < (bufSlice f i n).length) :
    (bufSlice f i n)[j] = f (i + j) := by simp [bufSlice]

end Sys2Proof.Machine
end

