-- ==== Sys2Proof/Laws/Operands.lean ====
section
/-! SUPPORT. Byte order: bytes of a value and the value of bytes; 24-bit counters; records. -/

namespace Sys2Proof.Machine

@[simp] theorem length_bytes24 (v : Ctr) : (bytes24 v).length = 3 := rfl

@[simp] theorem length_bytesOf {w : Nat} (v : BitVec w) (i n : Nat) : (bytesOf v i n).length = n := by simp [bytesOf]

@[simp] theorem getElem_bytesOf {w : Nat} (v : BitVec w) (i n j : Nat) (h : j < (bytesOf v i n).length) :
    (bytesOf v i n)[j] = getByte v (i + j) := by simp [bytesOf]

/-- `be24` of the three bytes of a counter is the counter. -/
@[simp] theorem be24_getByte (v : Ctr) : be24 (getByte v 0) (getByte v 1) (getByte v 2) = v := by
  apply BitVec.eq_of_getLsbD_eq
  intro i hi
  simp only [be24, getByte, BitVec.getLsbD_append, BitVec.getLsbD_extractLsb']
  rcases Nat.lt_or_ge i 8 with h | h
  · simp [h]
  · rcases Nat.lt_or_ge i 16 with h2 | h2
    · simp [show ¬i < 8 by omega, show i - 8 < 8 by omega, show 8 + (i - 8) = i by omega]
    · simp [show ¬i < 8 by omega, show ¬i - 8 < 8 by omega, show i - 8 - 8 < 8 by omega, show 16 + (i - 8 - 8) = i by omega]

@[simp] theorem length_record (sl : Slot) : sl.record.length = Config.nvRecBytes := rfl

@[simp] theorem be24At_record_rc (sl : Slot) : be24At sl.record 0 = sl.txRc := by
  simp [be24At, byteAt, Slot.record, bytes24]

@[simp] theorem byteAt_record_lav (sl : Slot) : (byteAt sl.record 3 != 0x00) = sl.rxLav := by
  cases h : sl.rxLav <;> simp [byteAt, Slot.record, bytes24, h]

@[simp] theorem be24At_record_lr (sl : Slot) : be24At sl.record 4 = sl.rxLr := by
  simp [be24At, byteAt, Slot.record, bytes24]

@[simp] theorem be24At_record_lm (sl : Slot) : be24At sl.record 7 = sl.rxLm := by
  simp [be24At, byteAt, Slot.record, bytes24]

/-- The bytes of the left part of an append. -/
theorem getByte_append_left {v w : Nat} (a : BitVec v) (b : BitVec w) (j : Nat) (h : 8 * (j + 1) ≤ v) :
    getByte (a ++ b) j = getByte a j := by
  apply BitVec.eq_of_getLsbD_eq
  intro i hi
  simp only [getByte, BitVec.getLsbD_extractLsb', BitVec.getLsbD_append, hi, decide_true, Bool.true_and]
  rw [if_neg (by omega)]
  congr 1; omega

/-- The bytes of the right part of an append. -/
theorem getByte_append_right {v w : Nat} (a : BitVec v) (b : BitVec w) (j k : Nat) (h : 8 * j = v + 8 * k)
    (hk : 8 * (k + 1) ≤ w) : getByte (a ++ b) j = getByte b k := by
  apply BitVec.eq_of_getLsbD_eq
  intro i hi
  simp only [getByte, BitVec.getLsbD_extractLsb', BitVec.getLsbD_append, hi, decide_true, Bool.true_and]
  rw [if_pos (by omega)]
  congr 1; omega

/-- The bytes of the leading part of a value. -/
theorem getByte_extract {w : Nat} (v : BitVec w) (n j : Nat) (hn : n ≤ w) (h : 8 * (j + 1) ≤ n) :
    getByte (v.extractLsb' (w - n) n) j = getByte v j := by
  apply BitVec.eq_of_getLsbD_eq
  intro i hi
  simp only [getByte, BitVec.getLsbD_extractLsb', hi, decide_true, Bool.true_and, show n - 8 * (j+1) + i < n by omega]
  congr 1; omega

@[simp] theorem getByte_one (v : Byte) : getByte v 0 = v := by simp [getByte]

/-- A value of whole bytes is its bytes. -/
theorem getByte_ext {n : Nat} (v w : BitVec (8 * n)) (h : ∀ j : Nat, j < n → getByte v j = getByte w j) : v = w := by
  apply BitVec.eq_of_getLsbD_eq
  intro i hi
  have hb := congrArg (BitVec.getLsbD · (i % 8)) (h (n - 1 - i / 8) (by omega))
  simp only [getByte, BitVec.getLsbD_extractLsb', show i % 8 < 8 by omega, decide_true, Bool.true_and,
    show 8 * n - 8 * (n - 1 - i / 8 + 1) + i % 8 = i by omega] at hb
  exact hb

/-- Reading a byte of a value after one of its bytes is written. -/
theorem getByte_setByte {w : Nat} (v : BitVec w) (i j : Nat) (x : Byte) (hi : 8 * (i + 1) ≤ w) (hj : 8 * (j + 1) ≤ w) :
    getByte (setByte v i x) j = if j = i then x else getByte v j := by
  apply BitVec.eq_of_getLsbD_eq
  intro n hn
  split_ifs with h
  · subst h
    simp only [getByte, setByte, BitVec.getLsbD_extractLsb', BitVec.getLsbD_or, BitVec.getLsbD_and, BitVec.getLsbD_not,
      BitVec.getLsbD_shiftLeft, BitVec.getLsbD_setWidth]
    have e : w - 8 * (j + 1) + n - (w - 8 * (j + 1)) = n := by omega
    have hw : w - 8 * (j + 1) + n < w := by omega
    have hff : (255#8).getLsbD n = true := by
      have : ∀ k : Fin 8, (255#8).getLsbD k.val = true := by decide
      exact this ⟨n, hn⟩
    simp [e, hn, hw, hff, show n < w by omega]
  · simp only [getByte, setByte, BitVec.getLsbD_extractLsb', BitVec.getLsbD_or, BitVec.getLsbD_and, BitVec.getLsbD_not,
      BitVec.getLsbD_shiftLeft, BitVec.getLsbD_setWidth]
    have hw : w - 8 * (j + 1) + n < w := by omega
    rcases Nat.lt_or_gt_of_ne h with hlt | hgt
    · have hge : 8 ≤ w - 8 * (j + 1) + n - (w - 8 * (i + 1)) := by omega
      have h1 : (255#8).getLsbD (w - 8 * (j + 1) + n - (w - 8 * (i + 1))) = false := BitVec.getLsbD_of_ge _ _ hge
      have h2 : x.getLsbD (w - 8 * (j + 1) + n - (w - 8 * (i + 1))) = false := BitVec.getLsbD_of_ge _ _ hge
      simp [hn, hw, h1, h2]
    · have hl : w - 8 * (j + 1) + n < w - 8 * (i + 1) := by omega
      simp [hn, hw, hl]

end Sys2Proof.Machine
end

