-- ==== Sys2Proof/Laws/HostPort.lean ====
section
/-! SUPPORT. What a host access is, idle and busy (20_memory R82, R86), so that no proof unfolds `hostRead` or `hostWrite`. -/

namespace Sys2Proof.Machine

theorem isBusy_idle {s : State} (h : s.phase = .idle) : s.isBusy = false := by simp [State.isBusy, h]

theorem isBusy_busy {s : State} {op : Byte} {n : Nat} {req : Option Request} (h : s.phase = .busy op n req) :
    s.isBusy = true := by simp [State.isBusy, h]

theorem hostRead_idle (e : Env) {s : State} (h : s.phase = .idle) (a : HostAddr) :
    s.hostRead e a = s.readLocation e a.toNat := by
  simp [State.hostRead, isBusy_idle h]

theorem hostWrite_idle {s : State} (h : s.phase = .idle) (a : HostAddr) (v : Byte) :
    s.hostWrite a v = s.writeLocation a.toNat v := by simp [State.hostWrite, isBusy_idle h]

theorem hostWrite_busy {s : State} {op : Byte} {n : Nat} {req : Option Request} (h : s.phase = .busy op n req)
    (a : HostAddr) (v : Byte) : s.hostWrite a v = { s with werr := true } := by
  simp [State.hostWrite, isBusy_busy h]

/-- `CMD`, `STATUS` and `RESULT` read as themselves, busy or idle (R86). -/
theorem hostRead_always (e : Env) (s : State) :
    s.hostRead e Addr.cmd = s.cmd ∧ s.hostRead e Addr.status = s.statusByte ∧
      s.hostRead e Addr.result = s.result.toByte := by
  simp [State.hostRead, Addr.cmd, Addr.status, Addr.result, State.readLocation, bufEnd, State.readControl]

/-- The two bytes of a length register are its value (10_state R38). -/
theorem lenHigh_append_lenLow (v : BitVec 9) : lenHigh v ++ lenLow v = v.setWidth 16 := by
  unfold lenHigh lenLow; decide +revert

/-- A read inside the slot window, `ASSOC_SEL` naming a slot (10_state R57). -/
theorem readLocation_window (e : Env) {s : State} (hs : s.assocSel.toNat < Config.pAssoc) {a : Nat} (h : 0x251 ≤ a)
    (h' : a < 0x280) : s.readLocation e a = (s.blk.slot s.assocSel.toNat).windowByte a := by
  simp [State.readLocation, bufEnd, State.readWindow, hs, h', show ¬ a < 512 by omega, show ¬ a < 0x212 by omega,
    show ¬ a < 0x215 by omega, show ¬ a < 0x218 by omega, show ¬ a < 0x227 by omega, show ¬ a < 0x228 by omega,
    show ¬ a < 0x234 by omega, show ¬ a < 0x240 by omega, show ¬ a < 0x250 by omega, show a ≠ 0x250 by omega]

end Sys2Proof.Machine
end

