-- ==== Sys2Proof/Laws/Nonce.lean ====
section
/-! SUPPORT. The nonces of the secure commands, byte by byte: a nonce has the bytes 42_nonce R220 lists, and they determine it. -/

namespace Sys2Proof.Machine

/-- R220's bytes as one conjunction, which can be decided. -/
theorem ivBytes_conj {force : Bool} {f : Nat → Byte} {r m : Ctr} {sending : Bool} {iv : BitVec 96} :
    IvBytes force f r m sending iv ↔
      (∀ j : Nat, j < 5 → getByte iv j = f j) ∧
      (getByte iv 5 = if force then BitVec.ofBool sending ++ (f 5).extractLsb' 0 7 else f 5) ∧
      (∀ j : Nat, j < 3 → getByte iv (6 + j) = getByte r j) ∧ ∀ j : Nat, j < 3 → getByte iv (9 + j) = getByte m j :=
  ⟨fun h => ⟨h.id, h.dir, h.restart, h.message⟩, fun ⟨i, d, r, m⟩ => ⟨i, d, r, m⟩⟩

/-- A nonce has the bytes of R220. -/
theorem ivBytes_nonce (force : Bool) (id6 : BitVec 48) (r m : Ctr) (dir : Direction) :
    IvBytes force (getByte id6) r m (dir == .sending) (nonce force id6 r m dir) where
  id j hj := by
    rw [nonce, getByte_append_left _ _ _ (by omega), getByte_append_left _ _ _ (by omega), directed]
    split
    · rw [getByte_append_left _ _ _ (by omega)]; exact getByte_extract id6 40 j (by omega) (by omega)
    · rfl
  dir := by
    rw [nonce, getByte_append_left _ _ _ (by omega), getByte_append_left _ _ _ (by omega), directed]
    split
    · rw [getByte_append_right _ _ 5 0 (by omega) (by omega), getByte_one]
      congr 1; ext i hi; simp [getByte]
    · rfl
  restart j hj := by
    rw [nonce, getByte_append_left _ _ _ (by omega), getByte_append_right _ _ _ j (by omega) (by omega)]
  message j hj := by
    rw [nonce, getByte_append_right _ _ _ j (by omega) (by omega)]

/-- R220's bytes determine the nonce. -/
theorem IvBytes.unique {force : Bool} {f g : Nat → Byte} {r m : Ctr} {sending : Bool} {iv iv' : BitVec 96}
    (h : IvBytes force f r m sending iv) (h' : IvBytes force g r m sending iv') (hfg : ∀ j : Nat, j < 6 → f j = g j) :
    iv = iv' := by
  refine getByte_ext (n := 12) iv iv' fun j hj => ?_
  rcases Nat.lt_trichotomy j 5 with h5 | rfl | h5
  · rw [h.id j h5, h'.id j h5, hfg j (by omega)]
  · rw [h.dir, h'.dir, hfg 5 (by omega)]
  · rcases Nat.lt_or_ge j 9 with h9 | h9
    · obtain ⟨i, rfl⟩ : ∃ i, j = 6 + i := ⟨j - 6, by omega⟩
      rw [h.restart i (by omega), h'.restart i (by omega)]
    · obtain ⟨i, rfl⟩ : ∃ i, j = 9 + i := ⟨j - 9, by omega⟩
      rw [h.message i (by omega), h'.message i (by omega)]

/-- R220's bytes are exactly `nonce`. -/
theorem ivBytes_iff {force : Bool} {f : Nat → Byte} {id6 : BitVec 48} {r m : Ctr} {dir : Direction} {iv : BitVec 96}
    (hf : ∀ j : Nat, j < 6 → f j = getByte id6 j) :
    IvBytes force f r m (dir == .sending) iv ↔ iv = nonce force id6 r m dir := by
  refine ⟨fun h => h.unique (ivBytes_nonce force id6 r m dir) hf, ?_⟩
  rintro rfl
  have h := ivBytes_nonce force id6 r m dir
  exact ⟨fun j hj => (h.id j hj).trans (hf j (by omega)).symm, by rw [h.dir, hf 5 (by omega)], h.restart, h.message⟩

/-- The IV of SEC_ENCODE, byte by byte (44_secureframe R286). -/
theorem ivBytes_send (e : Env) (sl : Slot) (iv : BitVec 96) :
    IvBytes e.dirForce (getByte sl.nodeId) sl.txRc sl.txMc (decide (sl.role = .source)) iv ↔ iv = sendNonce e sl := by
  rw [show decide (sl.role = .source) = (sl.role.sendDir == .sending) by cases sl.role <;> rfl, sendNonce]
  exact ivBytes_iff fun j hj => (getByte_extract sl.nodeId 48 j (by omega) (by omega)).symm

/-- The IV of SEC_DECODE, byte by byte (44_secureframe R291). -/
theorem ivBytes_receive (e : Env) (sl : Slot) (F : Nat → Byte) (iv : BitVec 96) :
    IvBytes e.dirForce (fun j => if j < frameIl F then F (3 + j) else getByte sl.nodeId j) (trailerR F) (trailerM F)
      (decide (sl.role = .sink)) iv ↔ iv = receiveNonce e sl F := by
  rw [show decide (sl.role = .sink) = (sl.role.receiveDir == .sending) by cases sl.role <;> rfl, receiveNonce]
  refine ivBytes_iff fun j hj => ?_
  change id6Byte F sl.nodeId j = _
  rw [receiveId6]
  interval_cases j <;> repeat rw [getByte_append_left _ _ _ (by omega)]
  · rw [getByte_one]
  all_goals rw [getByte_append_right _ _ _ 0 (by omega) (by omega), getByte_one]

end Sys2Proof.Machine
end

