-- ==== Sys2Proof/Laws/Ops.lean ====
section
/-! SUPPORT. One lemma per shared operation: what it can do. -/

namespace Sys2Proof.Machine

/-! Slots -/

/-- Slot `j` after slot `k` is replaced. -/
theorem slot_setSlot (b : Block) {k : Nat} (hk : k < Config.pAssoc) (sl : Slot) (j : Nat) :
    (b.setSlot k sl).slot j = if j = k then sl else b.slot j := by
  simp only [Block.slot, Block.setSlot_slots]
  split_ifs with h
  · subst h; simp [hk]
  · simp [Vector.getElem?_setIfInBounds_ne (Ne.symm h)]

@[simp] theorem slot_setSlot_same (b : Block) {k : Nat} (hk : k < Config.pAssoc) (sl : Slot) : (b.setSlot k sl).slot k = sl := by
  rw [slot_setSlot b hk]; simp

theorem slot_setSlot_ne (b : Block) {k j : Nat} (hk : k < Config.pAssoc) (h : j ≠ k) (sl : Slot) :
    (b.setSlot k sl).slot j = b.slot j := by
  rw [slot_setSlot b hk]; simp [h]

/-! NV records -/

@[simp] theorem length_nvRecord (e : Env) (nv : Memory) (k : Nat) : (nvRecord e nv k).length = Config.nvRecBytes := by
  simp [nvRecord]

/-- The record of an id after a record of 10 bytes is stored. -/
theorem nvRecord_nvStore (e : Env) (nv : Memory) (k j : Nat) (rec : List Byte) (h : rec.length = Config.nvRecBytes) :
    nvRecord e (nvStore nv k rec) j = if j = k then rec else nvRecord e nv j := by
  split_ifs with hj
  · subst hj
    apply List.ext_getElem (by simp [h])
    intro i h1 h2
    have hi : i < Config.nvRecBytes := by simpa using h1
    have hc : Config.nvRecBytes * j ≤ Config.nvRecBytes * j + i ∧
        Config.nvRecBytes * j + i < Config.nvRecBytes * j + rec.length := by omega
    simp [nvRecord, nvStore, Memory.get_writeBytes, h, hi]
  · apply List.ext_getElem (by simp)
    intro i h1 h2
    have hi : i < Config.nvRecBytes := by simpa using h1
    have hc : ¬(Config.nvRecBytes * k ≤ Config.nvRecBytes * j + i ∧
        Config.nvRecBytes * j + i < Config.nvRecBytes * k + rec.length) := by
      rw [h]; unfold Config.nvRecBytes at *; omega
    simp [nvRecord, nvStore, Memory.get_writeBytes, hc]

/-! Counters -/

/-- What an epoch's seed draw can do (43_replayguard R238). -/
theorem takeSeed_cases (e : Env) (b : Block) :
    (e.mcSeedBits = 0 ∧ takeSeed e b = (0, b)) ∨
    (e.mcSeedBits ≠ 0 ∧ takeSeed e b =
      (BitVec.ofNat 24 (e.seedDraw b.draws % 2 ^ e.mcSeedBits), { b with draws := b.draws + 1 })) := by
  unfold takeSeed
  split <;> simp_all

/-- This hardware's seed is 0 and draws nothing (43_replayguard R238). -/
@[simp] theorem takeSeed_config (b : Block) : takeSeed Config.env b = (0, b) := rfl

/-- What `advance` can do (43_replayguard R240): count up, roll over with an NV write, or mark the slot exhausted. -/
theorem advance_cases (e : Env) (k : Nat) (b : Block) :
    ((b.slot k).txMc < Config.ctrMax ∧
      advance e k b = (b.setSlot k { b.slot k with txMc := (b.slot k).txMc + 1 }, none)) ∨
    (¬(b.slot k).txMc < Config.ctrMax ∧ (b.slot k).txRc < Config.ctrMax ∧
      advance e k b =
        ((takeSeed e b).2.setSlot k { b.slot k with txRc := (b.slot k).txRc + 1, txMc := (takeSeed e b).1 },
          some (.nvWrite k { b.slot k with txRc := (b.slot k).txRc + 1, txMc := (takeSeed e b).1 }.record))) ∨
    (¬(b.slot k).txMc < Config.ctrMax ∧ ¬(b.slot k).txRc < Config.ctrMax ∧
      advance e k b = (b.setSlot k { b.slot k with txExh := true }, none)) := by
  unfold advance
  by_cases h1 : (b.slot k).txMc < Config.ctrMax
  · exact .inl ⟨h1, by simp [h1]⟩
  · by_cases h2 : (b.slot k).txRc < Config.ctrMax
    · exact .inr (.inl ⟨h1, h2, by simp [h1, h2]⟩)
    · exact .inr (.inr ⟨h1, h2, by simp [h1, h2]⟩)

/-! The checks every slot command begins with -/

/-- What `withSlot` can do. -/
theorem withSlot_cases (f : Nat → Block → Turn) (b : Block) :
    (Config.pAssoc ≤ b.argSlot.toNat ∧ withSlot f b = .finish .invalidSlot b) ∨
    (b.argSlot.toNat < Config.pAssoc ∧ withSlot f b = f b.argSlot.toNat b) := by
  unfold withSlot
  split
  · exact .inl ⟨‹_›, rfl⟩
  · exact .inr ⟨by omega, rfl⟩

/-- What `withOpenSlot` can do. -/
theorem withOpenSlot_cases (f : Nat → Block → Turn) (b : Block) :
    (Config.pAssoc ≤ b.argSlot.toNat ∧ withOpenSlot f b = .finish .invalidSlot b) ∨
    (b.argSlot.toNat < Config.pAssoc ∧ (b.slot b.argSlot.toNat).isOpen = false ∧ withOpenSlot f b = .finish .notOpen b) ∨
    (b.argSlot.toNat < Config.pAssoc ∧ (b.slot b.argSlot.toNat).isOpen = true ∧
      withOpenSlot f b = f b.argSlot.toNat b) := by
  unfold withOpenSlot
  rcases withSlot_cases (fun k b => if (b.slot k).isOpen then f k b else .finish .notOpen b) b with ⟨h, e⟩ | ⟨h, e⟩
  · exact .inl ⟨h, e⟩
  · cases ho : (b.slot b.argSlot.toNat).isOpen
    · exact .inr (.inl ⟨h, rfl, by rw [e]; simp [ho]⟩)
    · exact .inr (.inr ⟨h, rfl, by rw [e]; simp [ho]⟩)

/-! The agents' answers -/

/-- What an answer can do: an NV write changes only the NV store; any other answer changes only `STG` and the count of
draws. -/
theorem answer_cases (e : Env) (s : State) (q : Request) :
    (∃ k rec, q = .nvWrite k rec ∧ answer e s q = { s with nv := nvStore s.nv k rec }) ∨
    ((∀ k rec, q ≠ .nvWrite k rec) ∧
      ∃ g d, answer e s q = { s with blk := { s.blk with stg := g, draws := d } }) := by
  cases q with
  | nvRead k => exact .inr ⟨by simp, _, s.blk.draws, rfl⟩
  | nvWrite k rec => exact .inl ⟨k, rec, rfl, rfl⟩
  | gcmEnc key iv ad pt =>
    refine .inr ⟨by simp, ?_⟩
    simp only [answer]
    split
    · exact ⟨_, s.blk.draws + 1, rfl⟩
    · exact ⟨_, s.blk.draws + 1, rfl⟩
  | gcmDec key iv ad ct tag =>
    refine .inr ⟨by simp, ?_⟩
    simp only [answer]
    split
    · exact ⟨_, s.blk.draws, rfl⟩
    · exact ⟨_, s.blk.draws, rfl⟩

/-! Running a rule -/

@[simp] theorem runSteps_nil (e : Env) (s : State) : runSteps e [] s = s.complete .ok s.blk := rfl

theorem runSteps_finish (e : Env) {f : Block → Turn} {rest : Rule} {s : State} {c : ResultCode} {b : Block}
    (h : f s.blk = .finish c b) : runSteps e (f :: rest) s = s.complete c b := by simp [runSteps, h]

theorem runSteps_go (e : Env) {f : Block → Turn} {rest : Rule} {s : State} {b : Block} (h : f s.blk = .go b) :
    runSteps e (f :: rest) s = runSteps e rest { s with blk := b } := by simp [runSteps, h]

theorem runSteps_ask (e : Env) {f : Block → Turn} {rest : Rule} {s : State} {q : Request} {b : Block}
    (h : f s.blk = .ask q b) : runSteps e (f :: rest) s = runSteps e rest (answer e (s.issue q b) q) := by
  simp [runSteps, h]

/-- Every rule ends in a completion: it is idle, done, and holds nothing in `STG`. -/
theorem runSteps_completes (e : Env) (rule : Rule) (s : State) :
    ∃ s' code b, runSteps e rule s = State.complete s' code b := by
  induction rule generalizing s with
  | nil => exact ⟨s, .ok, s.blk, rfl⟩
  | cons f rest ih =>
    cases h : f s.blk with
    | finish c b => exact ⟨s, c, b, runSteps_finish e h⟩
    | go b => rw [runSteps_go e h]; exact ih _
    | ask q b => rw [runSteps_ask e h]; exact ih _

/-- What one Core step of a rule can do. -/
theorem stepRule_cases (rule : Rule) (op : Byte) (n : Nat) (s : State) :
    (∃ code b, stepRule rule op n s = s.complete code b) ∨
    (∃ f b, rule[n]? = some f ∧ f s.blk = .go b ∧
      stepRule rule op n s = { s with blk := b, phase := .busy op (n + 1) none }) ∨
    (∃ f q b, rule[n]? = some f ∧ f s.blk = .ask q b ∧
      stepRule rule op n s = { s.issue q b with phase := .busy op (n + 1) (some q) }) := by
  unfold stepRule
  cases hf : rule[n]? with
  | none => exact .inl ⟨.ok, s.blk, rfl⟩
  | some f =>
    cases ht : f s.blk with
    | finish c b => exact .inl ⟨c, b, by simp [ht]⟩
    | go b => exact .inr (.inl ⟨f, b, rfl, ht, by simp [ht]⟩)
    | ask q b => exact .inr (.inr ⟨f, q, b, rfl, ht, by simp [ht]⟩)

/-! Completion, in the statements' words -/

theorem complete_eq_Completed (s : State) (c : ResultCode) (b : Block) : s.complete c b = { s with
    result := c, phase := .idle, done := true, blk := { b with stg := Staging.empty } } := rfl

end Sys2Proof.Machine
end

