-- ==== Sys2Proof/Laws/PerInstr.lean ====
section
/-! SUPPORT. Facts about each command as syntax, one lemma per constructor. -/

namespace Sys2Proof.Laws.OpcodeNibbles

/-- The opcode byte of a command is its family nibble and its function nibble, and it is a legal opcode (30_encoding R120,
R124). -/
def Statement (i : Instr) : Prop :=
  (encodeByte i).extractLsb' 4 4 = i.fam ∧ (encodeByte i).extractLsb' 0 4 = i.fn ∧ legalOpcode (encodeByte i) = true

theorem nop : Statement .nop := ⟨by decide, by decide, by decide⟩
theorem crcInit : Statement .crcInit := ⟨by decide, by decide, by decide⟩
theorem crcUpdate : Statement .crcUpdate := ⟨by decide, by decide, by decide⟩
theorem crcFinal : Statement .crcFinal := ⟨by decide, by decide, by decide⟩
theorem hdrEncode : Statement .hdrEncode := ⟨by decide, by decide, by decide⟩
theorem validate : Statement .validate := ⟨by decide, by decide, by decide⟩
theorem decode : Statement .decode := ⟨by decide, by decide, by decide⟩
theorem crcAppend : Statement .crcAppend := ⟨by decide, by decide, by decide⟩
theorem crcVerify : Statement .crcVerify := ⟨by decide, by decide, by decide⟩
theorem nonceBuild : Statement .nonceBuild := ⟨by decide, by decide, by decide⟩
theorem assocOpen : Statement .assocOpen := ⟨by decide, by decide, by decide⟩
theorem assocRekey : Statement .assocRekey := ⟨by decide, by decide, by decide⟩
theorem txNext : Statement .txNext := ⟨by decide, by decide, by decide⟩
theorem rxCheck : Statement .rxCheck := ⟨by decide, by decide, by decide⟩
theorem rxCommit : Statement .rxCommit := ⟨by decide, by decide, by decide⟩
theorem rxRatchet : Statement .rxRatchet := ⟨by decide, by decide, by decide⟩
theorem secEncode : Statement .secEncode := ⟨by decide, by decide, by decide⟩
theorem secDecode : Statement .secDecode := ⟨by decide, by decide, by decide⟩

end Sys2Proof.Laws.OpcodeNibbles
end

