-- ==== Sys2Proof/Tests/Slice0.lean ====
section
/-! SUPPORT. Small tests: ill-formed terms refused, opcode bytes, one command each on a small state with the spec's own
examples, and for every statement with hypotheses a state and operands that meet them. -/

set_option Elab.async false

namespace Sys2Proof.Machine.Tests

/-! Well-formedness: every check refuses an ill-formed term (30_encoding R124, 20_memory R94) -/

theorem test_illegal_bytes_refused :
    ([0x04, 0x0F, 0x15, 0x1F, 0x21, 0x2F, 0x36, 0x3F, 0x42, 0xFF].all fun b => !legalOpcode b) = true := by decide +kernel
theorem test_short_and_long_record_refused :
    nvRecordWf (List.replicate 9 0) = false ∧ nvRecordWf (List.replicate 11 0) = false ∧
      nvRecordWf (List.replicate 10 0) = true := by decide +kernel
theorem test_every_command_well_formed : Instr.wf .secDecode = true ∧ legalOpcode (encodeByte .secDecode) = true := by decide +kernel

/-! Decoding: each byte written out, FAM then FN, from 30_encoding R120 and R121 -/

theorem test_decode_fam0 : decodeByte 0b0000_0000 = .ok .nop ∧ decodeByte 0b0000_0001 = .ok .crcInit ∧
    decodeByte 0b0000_0010 = .ok .crcUpdate ∧ decodeByte 0b0000_0011 = .ok .crcFinal := by decide +kernel
theorem test_decode_fam1 : decodeByte 0b0001_0000 = .ok .hdrEncode ∧ decodeByte 0b0001_0001 = .ok .validate ∧
    decodeByte 0b0001_0010 = .ok .decode ∧ decodeByte 0b0001_0011 = .ok .crcAppend ∧
    decodeByte 0b0001_0100 = .ok .crcVerify := by decide +kernel
theorem test_decode_fam2 : decodeByte 0b0010_0000 = .ok .nonceBuild := by decide +kernel
theorem test_decode_fam3 : decodeByte 0b0011_0000 = .ok .assocOpen ∧ decodeByte 0b0011_0001 = .ok .assocRekey ∧
    decodeByte 0b0011_0010 = .ok .txNext ∧ decodeByte 0b0011_0011 = .ok .rxCheck ∧
    decodeByte 0b0011_0100 = .ok .rxCommit ∧ decodeByte 0b0011_0101 = .ok .rxRatchet := by decide +kernel
theorem test_decode_fam4 : decodeByte 0b0100_0000 = .ok .secEncode ∧ decodeByte 0b0100_0001 = .ok .secDecode := by decide +kernel
theorem test_decode_rejects_by_name : decodeByte 0x7E = .error (.illegalOpcode 0x7E) ∧ decode [] = .error .noByte := by
  decide +kernel

/-! Small states -/

/-- An engine for tests: it encrypts to the plaintext itself with an all-zero tag, and fails on each draw number in `failing`. -/
def toyEnv (failing : List Nat) : Env where
  dirForce := true
  mcSeedBits := 0
  seedDraw := fun _ => 0
  gcmEnc := fun _ _ _ pt => (pt, List.replicate 16 0)
  gcmDec := fun _ _ _ ct tag => if tag = List.replicate 16 0 then some ct else none
  gcmEncFails := fun n => decide (n ∈ failing)
  nvProvisioned := fun _ => 0
  unwrittenByte := fun _ _ => 0

/-- The reset state with another block. -/
def stateOf (b : Block) : State := { State.reset with blk := b }

/-- The reset state with frame bytes in FB and their number in `FB_LEN`. -/
def frameState (f : List Byte) : State := stateOf { Block.reset.writeFb 0 f with fbLen := BitVec.ofNat 9 f.length }

/-- The reset state with slot 0 and its NV record. -/
def slotState (sl : Slot) (rec : List Byte) : State := { stateOf (Block.reset.setSlot 0 sl) with nv := nvStore [] 0 rec }

/-- An open slot with a sender pair and no recorded pair. -/
def openSlot (r m : Ctr) : Slot := { Slot.reset with isOpen := true, txRc := r, txMc := m }

/-- An open slot with a recorded pair. -/
def heardSlot (r m : Ctr) : Slot := { openSlot 1 0 with rxLav := true, rxLr := r, rxLm := m }

/-- An exhausted open slot. -/
def exhaustedSlot : Slot := { openSlot 0xFFFFFF 0xFFFFFF with txExh := true }

/-- The end state of a command with the test engine. -/
def endOf (i : Instr) (s : State) : State := commandEnd (toyEnv []) i s

/-- The frame of 41_framecodec R185's example. -/
def shortFrame : List Byte := [0x08, 0x4F, 0x02, 0x80, 0x81, 0x02, 0x00, 0x01, 0x23]

/-- The insecure vector of 95_test_vectors L1.2 (40_crc7 R164). -/
def statsFrame : List Byte :=
  [0x0E, 0x4F, 0x02, 0x80, 0x81, 0x08, 0x7F, 0x11, 0x7B, 0x22, 0x62, 0x22, 0x3A, 0x31, 0x61]

/-! System and CRC7: examples of R325, R326, R164 to R167 -/

theorem test_nop_clears_err :
    (endOf .nop { State.reset with result := .replayRejected }).statusByte = 0x02 := by decide +kernel
theorem test_illegal_opcode :
    (match step (State.reset.hostWrite Addr.cmd 0x7E) with
     | .next t => decide (t = { State.reset with cmd := 0x7E, done := true, result := .illegalCommand })
     | _ => false) = true := by decide +kernel
theorem test_crc_init : (endOf .crcInit (stateOf { Block.reset with crcState := 0x12 })).blk.crcState = 0x7F := by decide +kernel
theorem test_crc_update : (endOf .crcUpdate (stateOf { Block.reset with argData := 0x08 })).blk.crcState = 0x3A := by decide +kernel
theorem test_crc_final : (endOf .crcFinal (stateOf { Block.reset with crcState := 0 })).blk.crcOut = 0x80 ∧
    (endOf .crcFinal (stateOf { Block.reset with crcState := 0x23 })).blk.crcOut = 0x23 := by decide +kernel
theorem test_crc_vectors : crc7Final (crc7 (shortFrame.take 8)) = 0x23 ∧ crc7Final (crc7 (statsFrame.take 14)) = 0x61 ∧
    crc7 [0x04, 0x0B, 0xD0, 0x00] = 0 := by decide +kernel
theorem test_crc_table : crc7Update 0 0x01 = 0x37 ∧ crc7Update 0 0x80 = 0x1A ∧ crc7Update 0 0xFF = 0x6C := by decide +kernel

/-! FrameCodec: examples of R183, R185, R188, R190, R192 -/

/-- The operands of R183's example. -/
def headerState (n bl : Byte) : State :=
  stateOf { Block.reset with argType := 0x4F, argIdLen := n, argBl := bl, argId := 0x808100000000000000000000000000 }

theorem test_hdr_encode :
    bufSlice ((endOf .hdrEncode (headerState 2 2)).blk.fb (toyEnv [])) 0 6 = [0x08, 0x4F, 0x02, 0x80, 0x81, 0x02] ∧
      (endOf .hdrEncode (headerState 2 2)).blk.fbLen = 6 := by decide +kernel
theorem test_hdr_encode_length_limit : (endOf .hdrEncode (headerState 0 251)).result = .ok ∧
    (endOf .hdrEncode (headerState 1 251)).result = .invalidLength := by decide +kernel
theorem test_validate : (endOf .validate (frameState shortFrame)).result = .ok ∧
    (endOf .validate (frameState (shortFrame.set 1 0x80))).result = .malformedFrame := by decide +kernel
theorem test_decode_fields : (endOf .decode (frameState statsFrame)).blk.dec =
    ⟨0x0E, 0x4F, false, 0, 2, 8, 1, 6, 14⟩ := by decide +kernel
theorem test_crc_append : (endOf .crcAppend (frameState (shortFrame.take 8))).blk.fb (toyEnv []) 8 = 0x23 ∧
    (endOf .crcAppend (frameState (shortFrame.take 8))).blk.fbLen = 9 := by decide +kernel
theorem test_crc_verify : (endOf .crcVerify (frameState statsFrame)).result = .ok ∧
    (endOf .crcVerify (frameState (statsFrame.set 14 0x62))).result = .crcMismatch := by decide +kernel

/-! NonceAssembler and ReplayGuard: examples of R222, R237, R239, R241, R244, R246, R248 -/

/-- The operands of R222's example, with the direction flag. -/
def nonceState (dir : BitVec 2) : State :=
  stateOf { Block.reset with argFlags := dir, argId := 0xAAAAAAAA5555000000000000000000, argR := 0x2A, argM := 0x319 }

theorem test_nonce_build : (endOf .nonceBuild (nonceState 0)).blk.iv = 0xAAAAAAAA555500002A000319 ∧
    (endOf .nonceBuild (nonceState 2)).blk.iv = 0xAAAAAAAA55D500002A000319 := by decide +kernel

/-- The NV record of R237's example. -/
def openRecord : List Byte := [0x00, 0x00, 0x29, 0x01, 0x00, 0x00, 0x07, 0x00, 0x00, 0x05]

theorem test_assoc_open : (endOf .assocOpen (slotState Slot.reset openRecord)).blk.slot 0 =
      { Slot.reset with isOpen := true, txRc := 0x2A, rxLav := true, rxLr := 7, rxLm := 5 } ∧
    nvRecord (toyEnv []) (endOf .assocOpen (slotState Slot.reset openRecord)).nv 0 =
      [0x00, 0x00, 0x2A, 0x01, 0x00, 0x00, 0x07, 0x00, 0x00, 0x05] := by decide +kernel
theorem test_assoc_open_exhausted :
    (endOf .assocOpen (slotState Slot.reset [0xFF, 0xFF, 0xFF, 0, 0, 0, 0, 0, 0, 0])).result = .counterSpaceExhausted ∧
    ((endOf .assocOpen (slotState Slot.reset [0xFF, 0xFF, 0xFF, 0, 0, 0, 0, 0, 0, 0])).blk.slot 0).txExh = true := by
  decide +kernel
theorem test_assoc_rekey : (endOf .assocRekey (slotState (heardSlot 9 9) openRecord)).blk.slot 0 = openSlot 1 0 ∧
    nvRecord (toyEnv []) (endOf .assocRekey (slotState (heardSlot 9 9) openRecord)).nv 0 =
      [0x00, 0x00, 0x01, 0x00, 0x00, 0x00, 0x00, 0x00, 0x00, 0x00] := by decide +kernel
theorem test_tx_next : (endOf .txNext (slotState (openSlot 0x2A 0x318) [])).blk.argR = 0x2A ∧
    (endOf .txNext (slotState (openSlot 0x2A 0x318) [])).blk.argM = 0x318 ∧
    (endOf .txNext (slotState (openSlot 0x2A 0x318) [])).blk.slot 0 = openSlot 0x2A 0x319 := by decide +kernel
theorem test_tx_next_roll_over : (endOf .txNext (slotState (openSlot 5 0xFFFFFF) [])).blk.argM = 0xFFFFFF ∧
    (endOf .txNext (slotState (openSlot 5 0xFFFFFF) [])).blk.slot 0 = openSlot 6 0 ∧
    (nvRecord (toyEnv []) (endOf .txNext (slotState (openSlot 5 0xFFFFFF) [])).nv 0).take 3 = [0x00, 0x00, 0x06] := by
  decide +kernel

/-- A slot state with the pair in `ARG_R`, `ARG_M`. -/
def pairState (sl : Slot) (r m : Ctr) : State := stateOf { (Block.reset.setSlot 0 sl) with argR := r, argM := m }

theorem test_rx_check : (endOf .rxCheck (pairState (heardSlot 0x2A 0x319) 0x2A 0x319)).result = .replayRejected ∧
    (endOf .rxCheck (pairState (heardSlot 0x2A 0x319) 0x2A 0x31A)).result = .ok ∧
    (endOf .rxCheck (pairState (heardSlot 0x2A 0x319) 0x29 0xFFFFFF)).result = .replayRejected := by decide +kernel
theorem test_rx_commit : (nvRecord (toyEnv []) (endOf .rxCommit (pairState (openSlot 1 0) 0x2A 0x319)).nv 0).drop 3 =
    [0x01, 0x00, 0x00, 0x2A, 0x00, 0x03, 0x19] := by decide +kernel
theorem test_rx_ratchet : (endOf .rxRatchet (pairState (heardSlot 0x29 0x10) 0x29 0)).blk.slot 0 = heardSlot 0x29 0xFFFFFF ∧
    (endOf .rxRatchet (pairState (heardSlot 0x2A 0x10) 0x29 0)).blk.slot 0 = heardSlot 0x2A 0x10 := by decide +kernel

/-! SecureFrameCodec: examples of R281, R286, R294, with the test engine -/

/-- The body of R286's example. -/
def secBody : List Byte := [0x7F, 0x11, 0x7B, 0x22, 0x62, 0x22, 0x3A, 0x31]

/-- The slot of R286's example. -/
def secSlot : Slot := { openSlot 0x2A 0x319 with nodeId := 0xAAAAAAAA55550000 }

/-- The operands of R286's example. -/
def secState : State :=
  stateOf { (Block.reset.setSlot 0 secSlot).writePb secBody with argType := 0x4F, argIdLen := 4, pbLen := 8 }

/-- The frame it gives with the test engine. -/
def secFrame : List Byte :=
  [0x3E, 0xCF, 0x94, 0xAA, 0xAA, 0xAA, 0xAA, 0x20] ++ pad secBody true ++ [0x00, 0x00, 0x2A, 0x00, 0x03, 0x19] ++
    List.replicate 16 0x00 ++ [0x80]

theorem test_sec_encode : (endOf .secEncode secState).blk.fbLen = 63 ∧
    bufSlice ((endOf .secEncode secState).blk.fb (toyEnv [])) 0 63 = secFrame := by decide +kernel
theorem test_sec_encode_request : (endOf .secEncode secState).requests =
      [.gcmEnc 0 0xAAAAAAAA555500002A000319 [0x3E, 0xCF, 0x94, 0xAA, 0xAA, 0xAA, 0xAA, 0x20] (pad secBody true)] ∧
    ((endOf .secEncode secState).blk.slot 0).txMc = 0x31A := by decide +kernel

/-- A state that holds a secure frame in FB, with slot 1 in the Source role. -/
def receiveState (f : List Byte) (sl : Slot) : State :=
  stateOf { (Block.reset.setSlot 1 sl).writeFb 0 f with fbLen := BitVec.ofNat 9 f.length, argSlot := 1 }

/-- The receiving slot of R294's example. -/
def sourceSlot : Slot := { openSlot 1 0 with nodeId := 0xAAAAAAAA55550000, role := .source }

theorem test_sec_decode : (endOf .secDecode (receiveState secFrame sourceSlot)).blk.dec =
      ⟨0x3E, 0x4F, true, 9, 4, 0x20, 23, 8, 0x28⟩ ∧
    bufSlice ((endOf .secDecode (receiveState secFrame sourceSlot)).blk.pb (toyEnv [])) 0 8 = secBody ∧
    (endOf .secDecode (receiveState secFrame sourceSlot)).blk.pbLen = 8 := by decide +kernel

/-- A receiving slot whose `NODEID` differs from the header ID of `secFrame` at its last byte, `j = n-1 = 3`, and from the byte that
follows the header ID at `j = n = 4`; bit 7 of byte 5 is set. -/
def mixedSlot : Slot := { openSlot 1 0 with nodeId := 0xAAAAAABB55D50000, role := .source }

/-- 44_secureframe R291: bytes 0 to 3 of the IV are the header's, 4 and 5 those of `NODEID`, bit 7 of byte 5 cleared. -/
theorem test_sec_decode_iv_mixes_header_and_nodeid : (endOf .secDecode (receiveState secFrame mixedSlot)).requests.head? =
    some (.gcmDec 0 0xAAAAAAAA555500002A000319 [0x3E, 0xCF, 0x94, 0xAA, 0xAA, 0xAA, 0xAA, 0x20] (pad secBody true)
      (List.replicate 16 0x00)) := by decide +kernel
theorem test_sec_decode_replay : (endOf .secDecode (endOf .secDecode (receiveState secFrame sourceSlot))).result =
    .replayRejected := by decide +kernel
theorem test_pad_lengths : (pad [] true).length = 32 ∧ (pad [] false).length = 16 ∧ (pad secBody true)[31]? = some 23 := by
  decide +kernel

/-! Host port and reset: R86, R62, R128 -/

theorem test_busy_lockout : ((State.reset.hostWrite Addr.cmd 0x11).hostWrite Addr.maxFl 5).statusByte = 0x09 ∧
    ((State.reset.hostWrite Addr.cmd 0x11).hostWrite Addr.maxFl 5).hostRead (toyEnv []) Addr.maxFl = 0 := by decide +kernel
theorem test_host_program_expands : expandProgram [.exec .crcInit, .fblen 0x100, .wrn Addr.argR [1, 2], .clr] =
    [.write 0x200 0x01, .run, .read 0x201, .write 0x204 0x01, .write 0x205 0x00, .write 0x212 1, .write 0x213 2,
      .write 0x201 0x0A] := by decide +kernel

/-- 10_state R38, R43, R57: the bytes of one address each. -/
theorem test_idle_reads :
    (stateOf { Block.reset with argIdLen := 5, argBl := 6, fbLen := 0x1A3 }).hostRead (toyEnv []) 0x20B = 5 ∧
    (stateOf { Block.reset with argIdLen := 5, argBl := 6, fbLen := 0x1A3 }).hostRead (toyEnv []) 0x20C = 6 ∧
    (stateOf { Block.reset with argIdLen := 5, argBl := 6, fbLen := 0x1A3 }).hostRead (toyEnv []) 0x204 = 0x01 ∧
    (slotState exhaustedSlot []).hostRead (toyEnv []) 0x251 = 0x06 := by decide +kernel

/-! Witnesses: states and operands that meet the hypotheses of the statements -/

/-- A machine running `i`, at its first step. -/
def started (i : Instr) (b : Block) : State := (stateOf b).startCommand (encodeByte i)

theorem witness_IllegalOpcodeChangesNothing : illegalOpcode 0x42 = true ∧ State.reset.phase = .idle ∧
    State.reset.inputs = [] := by decide +kernel
theorem witness_StepRunsStartedCommand : decodeByte 0x41 = .ok .secDecode ∧
    (started .secDecode Block.reset).phase = .busy 0x41 0 none ∧ (started .secDecode Block.reset).inputs = [] ∧
    ({ started .secDecode Block.reset with inputs := [.run, .core] } : State).inputs = .run :: [.core] ∧
    decodeTableWord 8 0x41 = some .secDecode := by decide +kernel
theorem witness_MachineNeverStopsAndIdleWaits : State.reset.phase = .idle ∧ State.reset.inputs = [] ∧
    ∀ ev ∈ [Event.core, .nvAnswer, .gcmAnswer, .run], ({ State.reset with inputs := [ev] } : State).inputs = ev :: [] := by
  decide +kernel
theorem witness_HostAccessIsOneStep : ({ State.reset with inputs := [.read 0x3FF] } : State).inputs = .read 0x3FF :: [] ∧
    ({ State.reset with inputs := [.write 0x000 7] } : State).inputs = .write 0x000 7 :: [] := by decide +kernel
theorem witness_CmdWriteStartsCommand : State.reset.phase = .idle ∧
    ({ State.reset with inputs := [.write Addr.cmd 0xFF] } : State).inputs = .write Addr.cmd 0xFF :: [] := by decide +kernel
theorem witness_CommandsStayInsideTheBuffers : secState.blk.mem.below bufEnd = true := by decide +kernel
theorem witness_BusyLocksOutTheHost : (started .nop Block.reset).phase = .busy 0x00 0 none ∧
    (0x203 : HostAddr) ≠ 0x200 ∧ (0x203 : HostAddr) ≠ 0x201 ∧ (0x203 : HostAddr) ≠ 0x202 := by decide +kernel
theorem witness_ReservedAndReadOnlyWritesAreIgnored :
    ([0x227, 0x234, 0x23F, 0x249, 0x24F, 0x266, 0x26F, 0x283, 0x3FF].all reservedAddr) = true ∧
    ([0x202, 0x211, 0x228, 0x233, 0x240, 0x248, 0x25A, 0x265, 0x280, 0x282].all readOnlyAddr) = true ∧
    State.reset.phase = .idle ∧ Config.pAssoc ≤ ({ State.reset with assocSel := 4 } : State).assocSel.toNat := by
  decide +kernel
theorem witness_WrittenLocationReadsBack : State.reset.phase = .idle ∧
    ({ State.reset with assocSel := 3 } : State).assocSel.toNat < Config.pAssoc ∧
    ([0x000, 0x1FF, 0x203, 0x204, 0x209, 0x20A, 0x20F, 0x210, 0x212, 0x226, 0x250].all
      fun a : HostAddr => rwMask a != 0 && decide (a.toNat < 0x251)) = true ∧
    ([0x251, 0x259].all fun a => rwMask a != 0) = true := by decide +kernel
theorem witness_IdleReadsShowTheRegisters : State.reset.phase = .idle ∧
    ({ State.reset with assocSel := 3 } : State).assocSel.toNat < Config.pAssoc := by decide +kernel
theorem witness_InterruptFollowsDoneAndEnable : State.reset.phase = .idle ∧
    ({ State.reset with done := true } : State).done = true ∧ (0x02 : Byte).getLsbD 1 = true ∧
    (0x02 : Byte).getLsbD 0 = false ∧ (0x01 : Byte).getLsbD 0 = true := by decide +kernel
theorem witness_KeysAreWriteOnly : State.reset.phase = .idle ∧ State.reset.assocSel.toNat < Config.pAssoc ∧ 15 < 16 := by
  decide +kernel
theorem witness_ResetValues : 0x200 ≤ (0x200 : HostAddr).toNat ∧ (0x1FF : HostAddr).toNat < 0x200 := by decide +kernel
theorem witness_ResetEventRestoresResetState :
    ({ State.reset with inputs := [.reset true] } : State).inputs = .reset true :: [] ∧
    (∀ op n k rec, ({ State.reset with inputs := [.reset true] } : State).phase ≠ .busy op n (some (.nvWrite k rec))) ∧
    ({ State.reset with phase := .busy 0x31 1 (some (.nvWrite 0 openRecord)) } : State).phase =
      .busy 0x31 1 (some (.nvWrite 0 openRecord)) := ⟨rfl, by simp [State.reset], rfl⟩

/-- A rekey whose NV write is outstanding. -/
theorem witness_ResetDuringCommandLeavesOldOrNewRecords :
    (started .assocRekey Block.reset).phase = .busy (encodeByte .assocRekey) 0 none ∧
    (∀ ev ∈ [Event.write 0x000 1, .core], Event.ofCommand ev = true) ∧
    ∃ u, interleave (started .assocRekey Block.reset) [.write 0x000 1, .core] = some u ∧ u.isBusy = true :=
  ⟨rfl, by decide, _, rfl, rfl⟩
theorem witness_InterleavingsAgreeWithBigStep :
    (started .assocRekey Block.reset).phase = .busy (encodeByte .assocRekey) 0 none ∧
    (∀ ev ∈ [Event.core, .write 0x000 1, .nvAnswer, .core], Event.ofCommand ev = true) ∧
    ∃ t, interleave (started .assocRekey Block.reset) [.core, .write 0x000 1, .nvAnswer, .core] = some t ∧
      t.isBusy = false := ⟨rfl, by decide, _, rfl, rfl⟩
theorem witness_CommandsCompleteInBoundedSteps :
    (started .assocOpen Block.reset).phase = .busy (encodeByte .assocOpen) 0 none := by decide +kernel
theorem witness_StepKeepsInvariant : (started .txNext (Block.reset.setSlot 0 (openSlot 0xFFFFFF 0xFFFFFF))).Inv where
  mem := by decide +kernel
  nv := by decide +kernel
  slots := by unfold Slot.Inv; decide +kernel
  phase := ⟨rfl, rfl, by simp⟩

/-- The secure header that fills `fl` to 255. -/
theorem witness_HdrEncodeWritesHeader :
    let s := stateOf { Block.reset with argType := 0x7E, argFlags := 1, argIdLen := 15, argBl := 214 }
    s.blk.argIdLen.toNat ≤ 15 ∧ s.blk.argBl.toNat ≤ 251 ∧ s.blk.frameType ≠ 0x00 ∧ s.blk.frameType ≠ 0x7F ∧
      3 + s.blk.argIdLen.toNat + s.blk.argBl.toNat + (if s.blk.secFlag then 23 else 1) = 255 := by decide +kernel
theorem witness_HdrEncodeWritesHeader_rejects : (Block.reset : Block).frameType = 0x00 ∧
    ({ Block.reset with argType := 0xFF } : Block).frameType = 0x7F ∧ 15 < ({ Block.reset with argIdLen := 16 } : Block).argIdLen.toNat ∧
    251 < ({ Block.reset with argBl := 252 } : Block).argBl.toNat := by decide +kernel
theorem witness_ValidateStructureAcceptsExactly : ∀ i, i < 5 → i ≤ ((fun _ => 4 : Nat → Byte) 0).toNat →
    (fun _ => 4 : Nat → Byte) i = (fun i => if i < 5 then 4 else 0 : Nat → Byte) i := by decide +kernel
theorem witness_DecodeExposesFields : (frameState shortFrame).blk.fbValid Config.env = true ∧
    (frameState []).blk.fbValid Config.env = false := by decide +kernel
theorem witness_CrcAppendWritesTrailer : ({ Block.reset with fbLen := 511 } : Block).fbl = 256 ∧
    ({ Block.reset with fbLen := 255 } : Block).fbl ≠ 256 := by decide +kernel
theorem witness_InsecureFrameRoundTrip :
    let s := headerState 8 243
    s.blk.secFlag = false ∧ s.blk.frameType ≠ 0x00 ∧ s.blk.frameType ≠ 0x7F ∧ s.blk.argIdLen.toNat ≤ 8 ∧
      (List.replicate 243 (0 : Byte)).length = s.blk.argBl.toNat ∧
      s.blk.argIdLen.toNat + (List.replicate 243 (0 : Byte)).length ≤ 251 ∧ s.blk.maxFl = 0xFF := by decide +kernel

theorem witness_AssocOpenLoadsRecord : (slotState Slot.reset openRecord).blk.argSlot.toNat = 0 ∧ 0 < 4 ∧
    be24At (nvRecord Config.env (slotState Slot.reset openRecord).nv 0) 0 ≠ 0xFFFFFF ∧
    be24At (nvRecord Config.env (slotState Slot.reset (List.replicate 10 0xFF)).nv 0) 0 = 0xFFFFFF := by decide +kernel
theorem witness_AssocRekeyStartsAfresh : ({ Block.reset with argSlot := 3 } : Block).argSlot.toNat = 3 ∧ 3 < 4 ∧
    4 ≤ ({ Block.reset with argSlot := 4 } : Block).argSlot.toNat := by decide +kernel
theorem witness_TxNextHandsOutPairAndAdvances : (slotState (openSlot 5 0xFFFFFF) []).blk.argSlot.toNat = 0 ∧
    ((slotState (openSlot 5 0xFFFFFF) []).blk.slot 0).isOpen = true ∧
    ((slotState (openSlot 5 0xFFFFFF) []).blk.slot 0).txExh = false ∧
    ((slotState (openSlot 5 0xFFFFFF) []).blk.slot 0).rollsOver = true := by decide +kernel
theorem witness_RefusesBadSlot_RefusesClosedSlot : 4 ≤ (stateOf { Block.reset with argSlot := 4 }).blk.argSlot.toNat ∧
    (stateOf { Block.reset with argSlot := 3 }).blk.argSlot.toNat < 4 ∧
    ((stateOf { Block.reset with argSlot := 3 }).blk.slot 3).isOpen = false := by decide +kernel
theorem witness_RxCheckTestsFreshness : (pairState (heardSlot 1 2) 1 2).blk.argSlot.toNat = 0 ∧
    ((pairState (heardSlot 1 2) 1 2).blk.slot 0).isOpen = true := by decide +kernel
theorem witness_RxCommitRecordsFreshPair : ((pairState (heardSlot 1 2) 1 2).blk.slot 0).isOpen = true ∧
    ((pairState (heardSlot 1 2) 1 2).blk.slot 0).fresh 1 2 = false ∧
    ((pairState (heardSlot 1 2) 1 3).blk.slot 0).fresh 1 3 = true := by decide +kernel
theorem witness_RxRatchetOnlyRaises : (heardSlot 1 0xFFFFFF).rxLav = true ∧
    lexGt 1 0xFFFFFF (heardSlot 1 0xFFFFFF).rxLr (heardSlot 1 0xFFFFFF).rxLm = false ∧
    lexGt 1 0xFFFFFF (heardSlot 1 0xFFFFFE).rxLr (heardSlot 1 0xFFFFFE).rxLm = true ∧ (openSlot 1 0).rxLav = false := by
  decide +kernel

/-- A state whose slot 0 is exhausted, its NV record agreeing. -/
def exhaustedState : State := slotState exhaustedSlot exhaustedSlot.record

/-- Opening again after a power cycle, rekeying slot 1, and trying to send. -/
def retryActs : List Act :=
  [.command .txNext, .powerCycle, .command .assocOpen, .crash .assocOpen true, .command .assocOpen, .hostWrite Addr.argSlot 1,
    .command .assocRekey, .hostWrite Addr.argSlot 0, .command .txNext]

theorem witness_ExhaustedSlotKeepsRefusing : exhaustedState.blk.argSlot.toNat = 0 ∧
    (exhaustedState.blk.slot 0).isOpen = true ∧ (exhaustedState.blk.slot 0).txExh = true ∧
    (exhaustedState.blk.slot 0).Inv ∧ NvMatches Config.env 0 exhaustedState ∧ NvMatches (toyEnv []) 0 exhaustedState ∧
    noRekey (toyEnv []) 0 exhaustedState retryActs = true ∧ Instr.assocOpen ≠ .assocRekey := by
  unfold NvMatches Slot.Inv; decide +kernel

/-- ASSOC_REKEY of another slot: the other way to meet the premise on the command. -/
theorem witness_ExhaustedSlotKeepsRefusing_otherSlot :
    ({ exhaustedState with blk := { exhaustedState.blk with argSlot := 1 } } : State).blk.argSlot.toNat ≠ 0 := by
  decide +kernel

/-- An open slot with a recorded pair, its NV record agreeing. -/
def agreeing : State := slotState (heardSlot 1 2) (heardSlot 1 2).record

theorem witness_RecordedPairNeverDecreases : NvMatches Config.env 0 agreeing ∧ (agreeing.blk.slot 0).isOpen = true ∧
    (agreeing.blk.slot 0).rxLav = true := by unfold NvMatches; decide +kernel
/-- ASSOC_REKEY of another slot meets the premise on the command. -/
theorem witness_RecordedPairNeverDecreases_otherSlot :
    (Instr.assocRekey ≠ .assocRekey ∨ ({ agreeing.blk with argSlot := 1 } : Block).argSlot.toNat ≠ 0) := by decide +kernel
theorem witness_OpenSlotsAgreeWithNv : NvMatches Config.env 0 agreeing := by unfold NvMatches; decide +kernel

/-- Rekeying slot 1, a power cycle, a crash in the middle of a commit, and opening again. -/
def lifeActs : List Act :=
  [.command .txNext, .hostWrite Addr.argSlot 1, .command .assocRekey, .command .txNext, .powerCycle, .command .assocOpen,
    .crash .rxCommit true, .command .assocOpen, .command .txNext]

/-- The rekey of slot 1 is no rekey of slot 0, and it is one of slot 1. -/
theorem test_rekeys_only_argslot : noRekey (toyEnv []) 1 agreeing lifeActs = false ∧
    noRekey (toyEnv []) 0 agreeing [.command .assocRekey] = false ∧
    noRekey (toyEnv []) 0 agreeing [.crash .assocRekey false] = false ∧
    ((afterActs (toyEnv []) agreeing (lifeActs.take 3)).blk.slot 1).isOpen = true := by decide +kernel

theorem witness_AcceptedPairIsNeverFreshAgain : NvMatches (toyEnv []) 0 agreeing ∧ (agreeing.blk.slot 0).isOpen = true ∧
    (agreeing.blk.slot 0).fresh 1 2 = false ∧ noRekey (toyEnv []) 0 agreeing lifeActs = true ∧
    ((afterActs (toyEnv []) agreeing lifeActs).blk.slot 0).isOpen = true := by
  unfold NvMatches; decide +kernel
theorem witness_HandedOutPairsStrictlyIncrease : NvMatches (toyEnv []) 0 agreeing ∧ (agreeing.blk.slot 0).Inv ∧
    noRekey (toyEnv []) 0 agreeing lifeActs = true ∧ pairsOut (toyEnv []) 0 agreeing lifeActs = [(1, 0), (3, 0)] := by
  unfold NvMatches Slot.Inv; decide +kernel

theorem witness_UnpadRejectsExactly : unpad [5, 0] = some [5] ∧ unpad [0x20] = none ∧ unpad [1] = none := by decide +kernel
theorem witness_SecureFrameSizes : (List.replicate 207 (0 : Byte)).length = 207 ∧ 8 ≤ 8 := by decide +kernel
theorem witness_SecEncodeRejectsInvalidLength : secState.blk.argSlot.toNat = 0 ∧ (secState.blk.slot 0).isOpen = true ∧
    8 < ({ secState.blk with argIdLen := 9 } : Block).argIdLen.toNat ∧
    251 < (pad (bufSlice (fun _ => 0) 0 240) true).length ∧
    255 < 3 + 6 + (pad (bufSlice (fun _ => 0) 0 208) true).length + 23 := by decide +kernel
theorem witness_SecEncodeBuildsFrame : (toyEnv []).mcSeedBits = 0 ∧ secState.blk.argSlot.toNat = 0 ∧
    secState.blk.slot 0 = secSlot ∧ secSlot.isOpen = true ∧ secSlot.txExh = false ∧ secState.blk.argIdLen.toNat = 4 ∧
    secState.blk.frameType ≠ 0x00 ∧ secState.blk.frameType ≠ 0x7F ∧
    pad (bufSlice (secState.blk.pb (toyEnv [])) 0 secState.blk.pbl) secState.blk.pad31 = pad secBody true ∧
    (pad secBody true).length = 32 ∧ 3 + 4 + 32 + 23 = 62 ∧
    IvBytes true (getByte secSlot.nodeId) secSlot.txRc secSlot.txMc (decide (secSlot.role = .source))
      0xAAAAAAAA555500002A000319 ∧
    gcmEncAnswer (toyEnv []) 0 0 0 [] [1] = some ([1], List.replicate 16 0) ∧
    gcmEncAnswer (toyEnv [0]) 0 0 0 [] [1] = none := by
  rw [ivBytes_conj]; decide +kernel

/-- The secure frame of the examples with its last tag byte wrong, and one whose padding is wrong. -/
def badTagFrame : List Byte := secFrame.set 61 0x01
def badPadFrame : List Byte := secFrame.set 39 0x20

/-- The bytes of FB when a frame has come in, whichever slot receives it. -/
def rxByte (f : List Byte) : Nat → Byte := (receiveState f mixedSlot).blk.fb (toyEnv [])

/-- What SEC_DECODE's statements say of every frame: slot 1 open, the frame's ID length, body length, trailer index and counters,
and the IV from the header ID and `NODEID`. -/
def Received (f : List Byte) (sl : Slot) (n b tr : Nat) (R M : Ctr) (iv : BitVec 96) : Prop :=
  ((receiveState f sl).blk.argSlot.toNat = 1 ∧ sl = (receiveState f sl).blk.slot 1 ∧ sl.isOpen = true ∧
    n = (rxByte f 2).toNat % 16 ∧ b = (rxByte f (3 + n)).toNat ∧ tr = 4 + n + b ∧
    R = rxByte f tr ++ rxByte f (tr + 1) ++ rxByte f (tr + 2) ∧
    M = rxByte f (tr + 3) ++ rxByte f (tr + 4) ++ rxByte f (tr + 5)) ∧
  IvBytes true (fun j => if j < n then rxByte f (3 + j) else getByte sl.nodeId j) R M (decide (sl.role = .sink)) iv

/-- The conditions of R294 on the frame itself: valid, secure, 23 trailer bytes, AES-GCM. -/
def secureChecks (f : List Byte) (tr : Nat) : Bool × Bool × Bool × Bool :=
  ((receiveState f mixedSlot).blk.fbValid (toyEnv []), (rxByte f 1).getLsbD 7, (rxByte f 0).toNat == tr + 22,
    rxByte f (rxByte f 0).toNat == 0x80)

/-- `mixedSlot` after a pair at least that of `secFrame`. -/
def staleSlot : Slot := { mixedSlot with rxLav := true, rxLr := 0x2A, rxLm := 0x319 }

/-- The header ID differs from `NODEID` at `j = n-1` and at `j = n`, where the byte in FB is `BL`. -/
theorem witness_ReceivedIdDiffers : rxByte secFrame (3 + 3) ≠ getByte mixedSlot.nodeId 3 ∧
    rxByte secFrame (3 + 4) ≠ getByte mixedSlot.nodeId 4 := by decide +kernel
theorem witness_SecDecode_received : Received secFrame mixedSlot 4 32 40 0x2A 0x319 0xAAAAAAAA555500002A000319 := by
  unfold Received; rw [ivBytes_conj]; decide +kernel
theorem witness_SecDecodeDeliversBody : secureChecks secFrame 40 = (true, true, true, true) ∧
    mixedSlot.fresh 0x2A 0x319 = true ∧
    gcmDecAnswer (toyEnv []) mixedSlot.key 0xAAAAAAAA555500002A000319 (bufSlice (rxByte secFrame) 0 8)
      (bufSlice (rxByte secFrame) 8 32) (bufSlice (rxByte secFrame) 46 16) = some (pad secBody true) ∧
    unpad (pad secBody true) = some secBody := by decide +kernel

/-- No frame, and frames that fail one of R294's checks each. -/
theorem witness_SecDecodeFailuresChangeNothing_malformed :
    Received [] mixedSlot 0 0 4 0 0 0xAAAAAABB5555000000000000 ∧ (secureChecks [] 4).1 = false ∧
    secureChecks shortFrame 8 = (true, false, false, false) ∧
    secureChecks (secFrame.set 62 0x7F) 40 = (true, true, true, false) ∧
    secureChecks (secFrame.set 7 0x21) 41 = (true, true, false, true) := by
  unfold Received; rw [ivBytes_conj]; decide +kernel
theorem witness_SecDecodeFailuresChangeNothing_replay :
    Received secFrame staleSlot 4 32 40 0x2A 0x319 0xAAAAAAAA555500002A000319 ∧ staleSlot.fresh 0x2A 0x319 = false := by
  unfold Received; rw [ivBytes_conj]; decide +kernel
theorem witness_SecDecodeFailuresChangeNothing_tag :
    Received badTagFrame mixedSlot 4 32 40 0x2A 0x319 0xAAAAAAAA555500002A000319 ∧
    secureChecks badTagFrame 40 = (true, true, true, true) ∧ mixedSlot.fresh 0x2A 0x319 = true ∧
    gcmDecAnswer (toyEnv []) mixedSlot.key 0xAAAAAAAA555500002A000319 (bufSlice (rxByte badTagFrame) 0 8)
      (bufSlice (rxByte badTagFrame) 8 32) (bufSlice (rxByte badTagFrame) 46 16) = none := by
  unfold Received; rw [ivBytes_conj]; decide +kernel
theorem witness_SecDecodeFailuresChangeNothing_padding :
    Received badPadFrame mixedSlot 4 32 40 0x2A 0x319 0xAAAAAAAA555500002A000319 ∧
    secureChecks badPadFrame 40 = (true, true, true, true) ∧
    gcmDecAnswer (toyEnv []) mixedSlot.key 0xAAAAAAAA555500002A000319 (bufSlice (rxByte badPadFrame) 0 8)
      (bufSlice (rxByte badPadFrame) 8 32) (bufSlice (rxByte badPadFrame) 46 16) = some (bufSlice (rxByte badPadFrame) 8 32) ∧
    unpad (bufSlice (rxByte badPadFrame) 8 32) = none := by
  unfold Received; rw [ivBytes_conj]; decide +kernel

theorem toy_GcmCorrect : GcmCorrect (toyEnv []) := by
  intro k iv ad pt ct tag
  simp only [toyEnv, Prod.mk.injEq]
  split <;> simp_all [eq_comm]
theorem toy_GcmAnswersOk : GcmAnswersOk (toyEnv []) := by simp [GcmAnswersOk, toyEnv, Config.tagBytes]

/-- A sender in the Sink role and a receiver in the Source role, in one machine. -/
def bothEnds : State := { secState with blk := secState.blk.setSlot 1 sourceSlot }

/-- The same machine after SEC_ENCODE, set to decode on slot 1. -/
def otherEnd : State :=
  { endOf .secEncode bothEnds with blk := { (endOf .secEncode bothEnds).blk with argSlot := 1 } }

theorem witness_SecureFrameRoundTrip : bothEnds.blk.argSlot.toNat = 0 ∧ (bothEnds.blk.slot 0).isOpen = true ∧
    (bothEnds.blk.slot 0).txExh = false ∧ bothEnds.blk.argIdLen.toNat ≤ 8 ∧ bothEnds.blk.frameType ≠ 0x00 ∧
    bothEnds.blk.frameType ≠ 0x7F ∧ bothEnds.blk.pbl ≤ 207 ∧ otherEnd.blk.argSlot.toNat = 1 ∧
    (otherEnd.blk.slot 1).isOpen = true ∧ (otherEnd.blk.slot 1).key = (bothEnds.blk.slot 0).key ∧
    (otherEnd.blk.slot 1).nodeId = (bothEnds.blk.slot 0).nodeId ∧ (otherEnd.blk.slot 1).role ≠ (bothEnds.blk.slot 0).role ∧
    (otherEnd.blk.slot 1).fresh 0x2A 0x319 = true ∧ otherEnd.blk.fbLen = (endOf .secEncode bothEnds).blk.fbLen ∧
    ((endOf .secEncode bothEnds).blk.fb (toyEnv []) 0).toNat ≤ otherEnd.blk.maxFl.toNat := by decide +kernel
theorem witness_SecureFrameRoundTrip_copied (i : Nat) :
    otherEnd.blk.fb (toyEnv []) i = (endOf .secEncode bothEnds).blk.fb (toyEnv []) i := rfl

end Sys2Proof.Machine.Tests
end

section
/-! SUPPORT. What the steps of the rules do to the buffers, and that no command writes outside them (O10). -/

namespace Sys2Proof.Machine

/-- Every byte of a memory is in FB or PB (00_scope R10). -/
def InBuffers (m : Memory) : Prop := m.below bufEnd = true

/-! What one step leaves -/

/-- The block a Core step leaves, however the step ends. -/
def Turn.blk : Turn → Block
  | .finish _ b => b
  | .go b => b
  | .ask _ b => b

@[simp] theorem Turn.blk_finish (c : ResultCode) (b : Block) : (Turn.finish c b).blk = b := rfl
@[simp] theorem Turn.blk_go (b : Block) : (Turn.go b).blk = b := rfl
@[simp] theorem Turn.blk_ask (q : Request) (b : Block) : (Turn.ask q b).blk = b := rfl

@[simp] theorem Turn.blk_askIf (req : Option Request) (b : Block) : (Turn.askIf req b).blk = b := by
  cases req <;> rfl

/-- A step ends the command with buffers of which `Q` holds, or leaves the next step, its request answered, a block of which
`R` holds. -/
def Turn.Leaves (e : Env) (Q : Memory → Prop) (R : Block → Prop) : Turn → Prop
  | .finish _ b => Q b.mem
  | .go b => R b
  | .ask q b => ∀ s : State, s.blk = b → R (answer e s q).blk

/-- An answer to a request changes no buffer byte. -/
@[simp] theorem answer_blk_mem (e : Env) (s : State) (q : Request) : (answer e s q).blk.mem = s.blk.mem := by
  obtain ⟨_, _, _, h⟩ | ⟨_, _, _, h⟩ := answer_cases e s q <;> rw [h]

/-- An answer to a request changes no operand register, so not `ARG_IDLEN`. -/
@[simp] theorem answer_blk_argIdLen (e : Env) (s : State) (q : Request) :
    (answer e s q).blk.argIdLen = s.blk.argIdLen := by
  obtain ⟨_, _, _, h⟩ | ⟨_, _, _, h⟩ := answer_cases e s q <;> rw [h]

/-- An NV write leaves the block as it was. -/
@[simp] theorem answer_nvWrite_blk (e : Env) (s : State) (k : Nat) (rec : List Byte) :
    (answer e s (.nvWrite k rec)).blk = s.blk := rfl

/-- A fact about the buffers holds at the end of a command when its first step leaves it, or what its rest needs for it. -/
theorem runSteps_mem_of_leaves {e : Env} {Q : Memory → Prop} {R : Block → Prop} {f : Block → Turn} {rest : Rule} {s : State}
    (hf : (f s.blk).Leaves e Q R) (hrest : ∀ t : State, R t.blk → Q (runSteps e rest t).blk.mem) :
    Q (runSteps e (f :: rest) s).blk.mem := by
  cases h : f s.blk with
  | finish c b => rw [h] at hf; rw [runSteps_finish e h]; exact hf
  | go b => rw [h] at hf; rw [runSteps_go e h]; exact hrest _ hf
  | ask q b => rw [h] at hf; rw [runSteps_ask e h]; exact hrest _ (hf _ rfl)

/-- Since no answer changes a buffer byte, a fact about the buffers holds after the answer if it holds when the step ends. -/
theorem Turn.leaves_mem (e : Env) {Q : Memory → Prop} {t : Turn} (h : Q t.blk.mem) :
    t.Leaves e Q fun b => Q b.mem := by
  cases t with
  | finish c b => exact h
  | go b => exact h
  | ask q b => rintro s rfl; simpa using h

/-- A fact about the buffers that each step of a rule keeps is kept by the rule. -/
theorem runSteps_mem_invariant (e : Env) {Q : Memory → Prop} {rule : Rule}
    (h : ∀ f ∈ rule, ∀ b : Block, Q b.mem → Q (f b).blk.mem) {s : State} (hs : Q s.blk.mem) :
    Q (runSteps e rule s).blk.mem := by
  induction rule generalizing s with
  | nil => exact hs
  | cons f rest ih =>
    exact runSteps_mem_of_leaves (Turn.leaves_mem e (h f (.head _) s.blk hs)) fun t ht => ih (fun g hg => h g (.tail _ hg)) ht

/-! The steps that write no buffer -/

@[simp] theorem takeSeed_mem (e : Env) (b : Block) : (takeSeed e b).2.mem = b.mem := by
  obtain ⟨_, h⟩ | ⟨_, h⟩ := takeSeed_cases e b <;> rw [h]

@[simp] theorem takeSeed_argIdLen (e : Env) (b : Block) : (takeSeed e b).2.argIdLen = b.argIdLen := by
  obtain ⟨_, h⟩ | ⟨_, h⟩ := takeSeed_cases e b <;> rw [h]

@[simp] theorem takeSeed_stg (e : Env) (b : Block) : (takeSeed e b).2.stg = b.stg := by
  obtain ⟨_, h⟩ | ⟨_, h⟩ := takeSeed_cases e b <;> rw [h]

/-- `advance` works on the slot file only: no buffer, no `ARG_IDLEN`, no `STG`. -/
theorem advance_frame (e : Env) (k : Nat) (b : Block) :
    (advance e k b).1.mem = b.mem ∧ (advance e k b).1.argIdLen = b.argIdLen ∧ (advance e k b).1.stg = b.stg := by
  obtain ⟨_, h⟩ | ⟨_, _, h⟩ | ⟨_, _, h⟩ := advance_cases e k b <;> simp [h]

@[simp] theorem advance_mem (e : Env) (k : Nat) (b : Block) : (advance e k b).1.mem = b.mem := (advance_frame e k b).1

/-- `advance` asks for nothing but an NV write, which leaves the block to the next step as it is. -/
theorem leaves_askIf_advance (e : Env) (Q : Memory → Prop) {R : Block → Prop} (k : Nat) {b : Block}
    (h : R (advance e k b).1) : (Turn.askIf (advance e k b).2 (advance e k b).1).Leaves e Q R := by
  obtain ⟨_, ha⟩ | ⟨_, _, ha⟩ | ⟨_, _, ha⟩ := advance_cases e k b
  · rw [ha] at h ⊢; exact h
  · rw [ha] at h ⊢; rintro s hs; rw [answer_nvWrite_blk, hs]; exact h
  · rw [ha] at h ⊢; exact h

theorem withSlot_mem {f : Nat → Block → Turn} {b : Block} (h : ∀ k, (f k b).blk.mem = b.mem) :
    (withSlot f b).blk.mem = b.mem := by
  obtain ⟨_, he⟩ | ⟨_, he⟩ := withSlot_cases f b <;> simp [he, h]

theorem withOpenSlot_mem {f : Nat → Block → Turn} {b : Block} (h : ∀ k, (f k b).blk.mem = b.mem) :
    (withOpenSlot f b).blk.mem = b.mem := by
  obtain ⟨_, he⟩ | ⟨_, _, he⟩ | ⟨_, _, he⟩ := withOpenSlot_cases f b <;> simp [he, h]

/-- The checks of 45_system R328 refuse with the block as it was. -/
theorem withOpenSlot_leaves {e : Env} {Q : Memory → Prop} {R : Block → Prop} {f : Nat → Block → Turn} {b : Block}
    (hb : Q b.mem) (h : ∀ k, (f k b).Leaves e Q R) : (withOpenSlot f b).Leaves e Q R := by
  obtain ⟨_, he⟩ | ⟨_, _, he⟩ | ⟨_, _, he⟩ := withOpenSlot_cases f b
  · rw [he]; exact hb
  · rw [he]; exact hb
  · rw [he]; exact h _

@[simp] theorem validateStep_mem (e : Env) (b : Block) : (validateStep e b).blk.mem = b.mem := by
  unfold validateStep; split <;> rfl

@[simp] theorem decodeStep_mem (e : Env) (b : Block) : (decodeStep e b).blk.mem = b.mem := by
  unfold decodeStep; split <;> rfl

@[simp] theorem crcVerifyStep_mem (e : Env) (b : Block) : (crcVerifyStep e b).blk.mem = b.mem := by
  unfold crcVerifyStep; split_ifs <;> rfl

@[simp] theorem nonceBuildStep_mem (e : Env) (b : Block) : (nonceBuildStep e b).blk.mem = b.mem := rfl

@[simp] theorem openRead_mem (b : Block) : (openRead b).blk.mem = b.mem := withSlot_mem fun _ => rfl

@[simp] theorem openLoad_mem (e : Env) (b : Block) : (openLoad e b).blk.mem = b.mem := by
  unfold openLoad; dsimp only; split_ifs <;> simp

@[simp] theorem openDone_mem (b : Block) : (openDone b).blk.mem = b.mem := rfl

@[simp] theorem rekeyStart_mem (e : Env) (b : Block) : (rekeyStart e b).blk.mem = b.mem :=
  withSlot_mem fun k => by simp

@[simp] theorem txNextStep_mem (e : Env) (b : Block) : (txNextStep e b).blk.mem = b.mem :=
  withOpenSlot_mem fun k => by split_ifs <;> simp

@[simp] theorem rxCheckStep_mem (b : Block) : (rxCheckStep b).blk.mem = b.mem :=
  withOpenSlot_mem fun k => by split_ifs <;> rfl

@[simp] theorem rxCommitStep_mem (b : Block) : (rxCommitStep b).blk.mem = b.mem :=
  withOpenSlot_mem fun k => by split_ifs <;> rfl

@[simp] theorem rxRatchetStep_mem (b : Block) : (rxRatchetStep b).blk.mem = b.mem :=
  withOpenSlot_mem fun k => by split_ifs <;> rfl

/-- Four commands have a buffer in R121's writes column; the steps of the others write no buffer byte. -/
theorem ruleOf_step_mem (e : Env) {i : Instr} (hi : i ∉ [.hdrEncode, .crcAppend, .secEncode, .secDecode]) {f : Block → Turn}
    (hf : f ∈ ruleOf e i) (b : Block) : (f b).blk.mem = b.mem := by
  cases i
  case assocOpen =>
    obtain rfl | rfl | rfl : f = openRead ∨ f = openLoad e ∨ f = openDone := by simpa [ruleOf, assocOpenRule] using hf
    · exact openRead_mem b
    · exact openLoad_mem e b
    · exact openDone_mem b
  case assocRekey =>
    obtain rfl | rfl : f = rekeyStart e ∨ f = openDone := by simpa [ruleOf, assocRekeyRule] using hf
    · exact rekeyStart_mem e b
    · exact openDone_mem b
  case hdrEncode | crcAppend | secEncode | secDecode => simp at hi
  all_goals
    obtain rfl := List.mem_singleton.1 hf
    simp

/-! The insecure commands that write FB -/

@[simp] theorem length_headerBytes (fl : Nat) (sec : Bool) (t : BitVec 7) (q : BitVec 4) (id : List Byte) (bl : Nat) :
    (headerBytes fl sec t q id bl).length = 4 + id.length := by
  simp only [headerBytes, List.length_append, List.length_cons, List.length_nil]; omega

/-- The header HDR_ENCODE writes ends in FB, its ID being at most 15 bytes. -/
theorem hdrEncodeStep_inBuffers {b : Block} (h : InBuffers b.mem) : InBuffers (hdrEncodeStep b).blk.mem := by
  unfold hdrEncodeStep
  dsimp only
  split_ifs with hn
  case neg =>
    refine Memory.below_writeBytes h ?_
    simp only [length_headerBytes, length_bytesOf, bufEnd, Config.idLenEncMax] at hn ⊢
    omega
  all_goals exact h

/-- The trailer CRC_APPEND writes is at an index below 256. -/
theorem crcAppendStep_inBuffers (e : Env) {b : Block} (h : InBuffers b.mem) :
    InBuffers (crcAppendStep e b).blk.mem := by
  unfold crcAppendStep
  split_ifs with hl
  · exact h
  · refine Memory.below_writeBytes h ?_
    simp only [List.length_singleton, bufEnd]
    omega

/-! SEC_ENCODE -/

/-- A ciphertext the GCM engine answers with has the length of its plaintext, and its tag 16 bytes (20_memory R98). -/
theorem lengths_of_gcmEncAnswer {e : Env} {draw : Nat} {key : BitVec 128} {iv : BitVec 96} {ad pt ct tag : List Byte}
    (h : gcmEncAnswer e draw key iv ad pt = some (ct, tag)) : ct.length = pt.length ∧ tag.length = Config.tagBytes := by
  unfold gcmEncAnswer at h
  split_ifs at h with _ hl
  rwa [Option.some.inj h] at hl

theorem answer_gcmEnc_lengths (e : Env) (s : State) (key : BitVec 128) (iv : BitVec 96) (ad pt : List Byte)
    (h : (answer e s (.gcmEnc key iv ad pt)).blk.stg.failed = false) :
    (answer e s (.gcmEnc key iv ad pt)).blk.stg.data.length = pt.length ∧
      (answer e s (.gcmEnc key iv ad pt)).blk.stg.tag.length = Config.tagBytes := by
  cases ha : gcmEncAnswer e s.blk.draws key iv ad pt with
  | none => simp [answer, ha] at h
  | some r => simpa [answer, ha] using lengths_of_gcmEncAnswer ha

/-- The buffers are in their bounds, and the frame of the body in `STG` has a length byte (44_secureframe R284). -/
def Block.BodyFits (b : Block) : Prop :=
  InBuffers b.mem ∧ secureFl b.argIdLen.toNat b.stg.data.length ≤ Config.flMax

/-- The same of the ciphertext in `STG`, whose tag has 16 bytes, unless the engine failed. -/
def Block.SealedFits (b : Block) : Prop :=
  InBuffers b.mem ∧
    (b.stg.failed = false → secureFl b.argIdLen.toNat b.stg.data.length ≤ Config.flMax ∧ b.stg.tag.length = Config.tagBytes)

theorem secureFl_le_of_not_tooLong {b : Block} {bl : Nat} (h : ¬secEncodeTooLong b bl = true) :
    secureFl b.argIdLen.toNat bl ≤ Config.flMax := by
  unfold secEncodeTooLong at h
  split_ifs at h
  · simp at h
  · simp at h
  · simp at h
  · simpa using h

theorem secEncodeStart_leaves (e : Env) {b : Block} (h : InBuffers b.mem) :
    (secEncodeStart e b).Leaves e InBuffers Block.BodyFits := by
  refine withOpenSlot_leaves h fun k => ?_
  split_ifs with hl hx
  · exact h
  · exact h
  · refine leaves_askIf_advance e _ k ?_
    obtain ⟨hm, hn, hs⟩ := advance_frame e k { b with stg := ⟨sendNonce e (b.slot k), b.paddedBody e, [], false⟩ }
    unfold Block.BodyFits
    rw [hm, hn, hs]
    exact ⟨h, secureFl_le_of_not_tooLong hl⟩

theorem secEncodeSeal_leaves (e : Env) {b : Block} (h : b.BodyFits) :
    (secEncodeSeal b).Leaves e InBuffers Block.SealedFits := by
  obtain ⟨hm, hl⟩ := h
  rintro s rfl
  refine ⟨by simpa using hm, fun hf => ?_⟩
  obtain ⟨hd, ht⟩ := answer_gcmEnc_lengths e s _ _ _ _ hf
  rw [hd, ht, answer_blk_argIdLen]
  exact ⟨hl, rfl⟩

/-- The frame SEC_ENCODE writes is as long as its length byte says, and so ends in FB. -/
theorem secEncodeFinish_inBuffers {b : Block} (h : b.SealedFits) : InBuffers (secEncodeFinish b).blk.mem := by
  obtain ⟨hm, hfit⟩ := h
  unfold secEncodeFinish
  dsimp only
  split_ifs with hf
  · exact hm
  · obtain ⟨hl, ht⟩ := hfit (by simpa using hf)
    refine Memory.below_writeBytes hm ?_
    simp only [Block.secHeader, List.length_append, length_headerBytes, length_bytesOf, length_bytes24, List.length_singleton,
      ht, secureFl, Config.tlSecure, Config.flMax, Config.tagBytes, bufEnd] at hl ⊢
    omega

/-! SEC_DECODE -/

/-- A plaintext the GCM engine answers with has the length of its ciphertext (20_memory R98). -/
theorem length_of_gcmDecAnswer {e : Env} {key : BitVec 128} {iv : BitVec 96} {ad ct tag pt : List Byte}
    (h : gcmDecAnswer e key iv ad ct tag = some pt) : pt.length = ct.length := by
  unfold gcmDecAnswer at h
  split at h
  · split_ifs at h with hl
    rw [← Option.some.inj h, hl]
  · cases h

theorem answer_gcmDec_length (e : Env) (s : State) (key : BitVec 128) (iv : BitVec 96) (ad ct tag : List Byte)
    (h : (answer e s (.gcmDec key iv ad ct tag)).blk.stg.failed = false) :
    (answer e s (.gcmDec key iv ad ct tag)).blk.stg.data.length = ct.length := by
  cases ha : gcmDecAnswer e key iv ad ct tag with
  | none => simp [answer, ha] at h
  | some pt => simpa [answer, ha] using length_of_gcmDecAnswer ha

/-- The buffers are in their bounds, and what the engine gave fits PB, unless it failed. -/
def Block.OpenedFits (b : Block) : Prop :=
  InBuffers b.mem ∧ (b.stg.failed = false → b.stg.data.length ≤ Config.bufBytes)

/-- The buffers are in their bounds, and the body in `STG` fits PB. -/
def Block.DeliveryFits (b : Block) : Prop := InBuffers b.mem ∧ b.stg.data.length ≤ Config.bufBytes

/-- Unpadding only takes bytes away. -/
theorem length_le_of_unpad {pt body : List Byte} (h : unpad pt = some body) : body.length ≤ pt.length := by
  unfold unpad at h
  dsimp only at h
  split_ifs at h
  rw [← Option.some.inj h]
  exact List.length_take_le' _ _

/-- A ciphertext in FB is at most 255 bytes, `BL` being a byte. -/
theorem frameBl_le_bufBytes (F : Nat → Byte) : frameBl F ≤ Config.bufBytes := (F (3 + frameIl F)).isLt.le

theorem secDecodeStart_leaves (e : Env) {b : Block} (h : InBuffers b.mem) :
    (secDecodeStart e b).Leaves e InBuffers Block.OpenedFits := by
  refine withOpenSlot_leaves h fun k => ?_
  dsimp only
  split_ifs with hv hs hr
  · exact h
  · exact h
  · exact h
  · intro s hs
    refine ⟨by simpa [hs] using h, fun hf => ?_⟩
    rw [answer_gcmDec_length e s _ _ _ _ _ hf, length_bufSlice]
    exact frameBl_le_bufBytes _

theorem secDecodeCommit_leaves (e : Env) {b : Block} (h : b.OpenedFits) :
    (secDecodeCommit e b).Leaves e InBuffers Block.DeliveryFits := by
  obtain ⟨hm, hfit⟩ := h
  unfold secDecodeCommit
  split_ifs with hf
  · exact hm
  · split
    next => exact hm
    next body hu =>
      rintro s hs
      rw [answer_nvWrite_blk, hs]
      exact ⟨hm, (length_le_of_unpad hu).trans (hfit (by simpa using hf))⟩

theorem secDecodeFinish_inBuffers (e : Env) {b : Block} (h : b.DeliveryFits) : InBuffers (secDecodeFinish e b).blk.mem := by
  obtain ⟨hm, hl⟩ := h
  refine Memory.below_writeBytes hm ?_
  simp only [pbBase, bufEnd, Config.bufBytes] at hl ⊢
  omega

/-! Every command -/

/-- 00_scope R10, for any agents and parameters. -/
theorem runSteps_ruleOf_inBuffers (e : Env) (i : Instr) {s : State} (h : InBuffers s.blk.mem) :
    InBuffers (runSteps e (ruleOf e i) s).blk.mem := by
  by_cases hi : i ∈ [.hdrEncode, .crcAppend, .secEncode, .secDecode]
  · obtain rfl | rfl | rfl | rfl : i = .hdrEncode ∨ i = .crcAppend ∨ i = .secEncode ∨ i = .secDecode := by simpa using hi
    · exact runSteps_mem_of_leaves (Turn.leaves_mem e (hdrEncodeStep_inBuffers h)) fun _ ht => ht
    · exact runSteps_mem_of_leaves (Turn.leaves_mem e (crcAppendStep_inBuffers e h)) fun _ ht => ht
    · refine runSteps_mem_of_leaves (secEncodeStart_leaves e h) fun t ht => ?_
      refine runSteps_mem_of_leaves (secEncodeSeal_leaves e ht) fun u hu => ?_
      exact runSteps_mem_of_leaves (Turn.leaves_mem e (secEncodeFinish_inBuffers hu)) fun _ hv => hv
    · refine runSteps_mem_of_leaves (secDecodeStart_leaves e h) fun t ht => ?_
      refine runSteps_mem_of_leaves (secDecodeCommit_leaves e ht) fun u hu => ?_
      exact runSteps_mem_of_leaves (Turn.leaves_mem e (secDecodeFinish_inBuffers e hu)) fun _ hv => hv
  · exact runSteps_mem_invariant e (fun f hf b hb => by rwa [ruleOf_step_mem e hi hf b]) h

/-- Settles O10: only HDR_ENCODE, CRC_APPEND, SEC_ENCODE and SEC_DECODE write buffer bytes, and what each writes fits its
buffer. -/
theorem commandsStayInsideTheBuffers : Obligations.CommandsStayInsideTheBuffers := by
  intro i s h
  exact ⟨_, exec_eq_execWith i s, runSteps_ruleOf_inBuffers Config.env i h⟩

end Sys2Proof.Machine
end

section
/-! SUPPORT. Running a rule whatever `STG` held before it: a rule's steps neither read `STG` nor write it, or overwrite it
first, and a completion empties it (O60). -/

namespace Sys2Proof.Machine

/-- The block with other contents of `STG`. -/
def Block.withStg (b : Block) (g : Staging) : Block := { b with stg := g }

@[simp] theorem Block.withStg_slot (b : Block) (g : Staging) (k : Nat) : (b.withStg g).slot k = b.slot k := rfl

theorem State.blk_withStg (s : State) (g : Staging) : (s.withStg g).blk = s.blk.withStg g := rfl

@[simp] theorem Block.withStg_argSlot (b : Block) (g : Staging) : (b.withStg g).argSlot = b.argSlot := rfl

@[simp] theorem Block.withStg_stg (b : Block) (g : Staging) : (b.withStg g).stg = g := rfl

/-- The turn with other contents of `STG` in the block it leaves. -/
def Turn.withStg (g : Staging) : Turn → Turn
  | .finish c b => .finish c (b.withStg g)
  | .go b => .go (b.withStg g)
  | .ask q b => .ask q (b.withStg g)

@[simp] theorem Turn.withStg_askIf (g : Staging) (req : Option Request) (b : Block) :
    (Turn.askIf req b).withStg g = Turn.askIf req (b.withStg g) := by
  cases req <;> rfl

/-- The turn with `STG` emptied if it completes the command: completion empties it anyway (45_system R323). -/
def Turn.emptied : Turn → Turn
  | .finish c b => .finish c (b.withStg Staging.empty)
  | t => t

/-- The end of a command whose step, taken in `s`, ended in this turn, with `rest` still to run. -/
def Turn.resume (e : Env) (rest : Rule) (s : State) : Turn → State
  | .finish c b => s.complete c b
  | .go b => runSteps e rest { s with blk := b }
  | .ask q b => runSteps e rest (answer e (s.issue q b) q)

theorem runSteps_cons (e : Env) (f : Block → Turn) (rest : Rule) (s : State) :
    runSteps e (f :: rest) s = (f s.blk).resume e rest s := by
  cases h : f s.blk with
  | finish c b => exact runSteps_finish e h
  | go b => exact runSteps_go e h
  | ask q b => exact runSteps_ask e h

theorem Turn.resume_emptied (e : Env) (rest : Rule) (s : State) (t : Turn) :
    t.emptied.resume e rest s = t.resume e rest s := by
  cases t <;> rfl

/-- A turn holds the whole block, so what `STG` held in the state before it is gone. -/
theorem Turn.resume_state_withStg (e : Env) (rest : Rule) (s : State) (g : Staging) (t : Turn) :
    t.resume e rest (s.withStg g) = t.resume e rest s := by
  cases t <;> rfl

/-- An answer latches in `STG` or leaves it, and does the rest whatever `STG` held. -/
theorem answer_withStg (e : Env) (s : State) (g : Staging) (q : Request) :
    ∃ g', answer e (s.withStg g) q = (answer e s q).withStg g' := by
  cases q with
  | nvRead k => exact ⟨_, rfl⟩
  | nvWrite k rec => exact ⟨g, rfl⟩
  | gcmEnc key iv ad pt =>
    simp only [answer, State.withStg_blk]
    split <;> exact ⟨_, rfl⟩
  | gcmDec key iv ad ct tag =>
    simp only [answer]
    split <;> exact ⟨_, rfl⟩

/-! Three ways for a rule or a step not to depend on `STG` -/

/-- The rule ends the same way whatever `STG` held. -/
def IgnoresStg (e : Env) (rule : Rule) : Prop :=
  ∀ (s : State) (g : Staging), runSteps e rule (s.withStg g) = runSteps e rule s

/-- The step neither reads `STG` nor writes it. -/
def StgFree (f : Block → Turn) : Prop := ∀ (b : Block) (g : Staging), f (b.withStg g) = (f b).withStg g

/-- Unless it completes the command, the step overwrites `STG`, without reading it. -/
def ReplacesStg (f : Block → Turn) : Prop := ∀ (b : Block) (g : Staging), (f (b.withStg g)).emptied = (f b).emptied

theorem Turn.resume_withStg {e : Env} {rest : Rule} (h : IgnoresStg e rest) (s : State) (g : Staging) (t : Turn) :
    (t.withStg g).resume e rest s = t.resume e rest s := by
  cases t with
  | finish c b => rfl
  | go b => exact h { s with blk := b } g
  | ask q b =>
    obtain ⟨g', hg⟩ := answer_withStg e (s.issue q b) g q
    exact (congrArg (runSteps e rest) hg).trans (h _ g')

theorem ignoresStg_nil (e : Env) : IgnoresStg e [] := fun _ _ => rfl

theorem StgFree.ignoresStg_cons {e : Env} {f : Block → Turn} {rest : Rule} (hf : StgFree f) (h : IgnoresStg e rest) :
    IgnoresStg e (f :: rest) := fun s g => by
  rw [runSteps_cons, runSteps_cons, Turn.resume_state_withStg, State.blk_withStg, hf, Turn.resume_withStg h]

theorem StgFree.ignoresStg_singleton {e : Env} {f : Block → Turn} (hf : StgFree f) : IgnoresStg e [f] :=
  hf.ignoresStg_cons (ignoresStg_nil e)

theorem ReplacesStg.ignoresStg_cons {e : Env} {f : Block → Turn} (hf : ReplacesStg f) (rest : Rule) :
    IgnoresStg e (f :: rest) := fun s g => by
  rw [runSteps_cons, runSteps_cons, Turn.resume_state_withStg, State.blk_withStg, ← Turn.resume_emptied, hf,
    Turn.resume_emptied]

/-! Choices and the checks of 45_system R328 -/

theorem StgFree.ite {p : Block → Prop} [DecidablePred p] {f f' : Block → Turn}
    (hp : ∀ (b : Block) (g : Staging), p (b.withStg g) = p b) (hf : StgFree f) (hf' : StgFree f') :
    StgFree fun b => if p b then f b else f' b := fun b g => by
  simp only [hp]
  split_ifs
  · exact hf b g
  · exact hf' b g

/-- A check that refuses, with the block as it was. -/
theorem StgFree.check {p : Block → Prop} [DecidablePred p] {f : Block → Turn} {c : ResultCode}
    (hp : ∀ (b : Block) (g : Staging), p (b.withStg g) = p b) (hf : StgFree f) :
    StgFree fun b => if p b then .finish c b else f b := .ite hp (fun _ _ => rfl) hf

theorem ReplacesStg.ite {p : Block → Prop} [DecidablePred p] {f f' : Block → Turn}
    (hp : ∀ (b : Block) (g : Staging), p (b.withStg g) = p b) (hf : ReplacesStg f) (hf' : ReplacesStg f') :
    ReplacesStg fun b => if p b then f b else f' b := fun b g => by
  simp only [hp]
  split_ifs
  · exact hf b g
  · exact hf' b g

theorem ReplacesStg.check {p : Block → Prop} [DecidablePred p] {f : Block → Turn} {c : ResultCode}
    (hp : ∀ (b : Block) (g : Staging), p (b.withStg g) = p b) (hf : ReplacesStg f) :
    ReplacesStg fun b => if p b then .finish c b else f b := .ite hp (fun _ _ => rfl) hf

theorem withSlot_stgFree {f : Nat → Block → Turn} (h : ∀ k, StgFree (f k)) : StgFree (withSlot f) :=
  .check (fun _ _ => rfl) fun b => h b.argSlot.toNat b

theorem withSlot_replacesStg {f : Nat → Block → Turn} (h : ∀ k, ReplacesStg (f k)) : ReplacesStg (withSlot f) :=
  .check (fun _ _ => rfl) fun b => h b.argSlot.toNat b

theorem withOpenSlot_stgFree {f : Nat → Block → Turn} (h : ∀ k, StgFree (f k)) : StgFree (withOpenSlot f) :=
  withSlot_stgFree fun k => .ite (fun _ _ => rfl) (h k) fun _ _ => rfl

theorem withOpenSlot_replacesStg {f : Nat → Block → Turn} (h : ∀ k, ReplacesStg (f k)) :
    ReplacesStg (withOpenSlot f) :=
  withSlot_replacesStg fun k => .ite (fun _ _ => rfl) (h k) fun _ _ => rfl

/-! The steps -/

theorem takeSeed_withStg (e : Env) (b : Block) (g : Staging) :
    takeSeed e (b.withStg g) = ((takeSeed e b).1, (takeSeed e b).2.withStg g) := by
  unfold takeSeed
  split_ifs <;> rfl

theorem advance_withStg (e : Env) (k : Nat) (b : Block) (g : Staging) :
    advance e k (b.withStg g) = ((advance e k b).1.withStg g, (advance e k b).2) := by
  unfold advance
  simp only [Block.withStg_slot, takeSeed_withStg]
  split_ifs <;> rfl

theorem askIf_advance_stgFree (e : Env) (k : Nat) : StgFree fun b => Turn.askIf (advance e k b).2 (advance e k b).1 :=
  fun b g => by simp only [advance_withStg, Turn.withStg_askIf]

theorem hdrEncodeStep_stgFree : StgFree hdrEncodeStep :=
  .check (fun _ _ => rfl) <| .check (fun _ _ => rfl) <| .check (fun _ _ => rfl) <| .check (fun _ _ => rfl) fun _ _ => rfl

theorem validateStep_stgFree (e : Env) : StgFree (validateStep e) :=
  .ite (fun _ _ => rfl) (fun _ _ => rfl) fun _ _ => rfl

theorem decodeStep_stgFree (e : Env) : StgFree (decodeStep e) :=
  .ite (fun _ _ => rfl) (fun _ _ => rfl) fun _ _ => rfl

theorem crcAppendStep_stgFree (e : Env) : StgFree (crcAppendStep e) :=
  .check (fun _ _ => rfl) fun _ _ => rfl

theorem crcVerifyStep_stgFree (e : Env) : StgFree (crcVerifyStep e) :=
  .check (fun _ _ => rfl) <| .check (fun _ _ => rfl) <| .check (fun _ _ => rfl) fun _ _ => rfl

theorem openRead_stgFree : StgFree openRead := withSlot_stgFree fun _ _ _ => rfl

/-- What the first step of ASSOC_OPEN can do. -/
theorem openRead_cases (b : Block) :
    (Config.pAssoc ≤ b.argSlot.toNat ∧ openRead b = .finish .invalidSlot b) ∨
    (b.argSlot.toNat < Config.pAssoc ∧ openRead b = .ask (.nvRead b.argSlot.toNat) b) := withSlot_cases _ b

/-- `openLoad` reads `STG` for the NV record in it, and nothing else. -/
theorem openLoad_withStg (e : Env) (b : Block) {g : Staging} (h : g.data = b.stg.data) :
    openLoad e (b.withStg g) = (openLoad e b).withStg g := by
  unfold openLoad
  simp only [Block.withStg_slot, Block.withStg_argSlot, Block.withStg_stg, h, takeSeed_withStg]
  split_ifs <;> rfl

theorem openDone_stgFree : StgFree openDone := fun _ _ => rfl

theorem rekeyStart_stgFree (e : Env) : StgFree (rekeyStart e) := withSlot_stgFree fun k b g => by
  simp only [Block.withStg_slot, takeSeed_withStg]
  rfl

theorem txNextStep_stgFree (e : Env) : StgFree (txNextStep e) :=
  withOpenSlot_stgFree fun k => .check (fun _ _ => rfl) fun b g =>
    askIf_advance_stgFree e k { b with argR := (b.slot k).txRc, argM := (b.slot k).txMc } g

theorem rxCheckStep_stgFree : StgFree rxCheckStep :=
  withOpenSlot_stgFree fun _ => .ite (fun _ _ => rfl) (fun _ _ => rfl) fun _ _ => rfl

theorem rxCommitStep_stgFree : StgFree rxCommitStep :=
  withOpenSlot_stgFree fun _ => .ite (fun _ _ => rfl) (fun _ _ => rfl) fun _ _ => rfl

theorem rxRatchetStep_stgFree : StgFree rxRatchetStep :=
  withOpenSlot_stgFree fun _ => .ite (fun _ _ => rfl) (fun _ _ => rfl) fun _ _ => rfl

theorem secEncodeStart_replacesStg (e : Env) : ReplacesStg (secEncodeStart e) :=
  withOpenSlot_replacesStg fun _ => .check (fun _ _ => rfl) <| .check (fun _ _ => rfl) fun _ _ => rfl

theorem secDecodeStart_replacesStg (e : Env) : ReplacesStg (secDecodeStart e) :=
  withOpenSlot_replacesStg fun _ => .check (fun _ _ => rfl) <| .check (fun _ _ => rfl) <|
    .check (fun _ _ => rfl) fun _ _ => rfl

/-! The rules -/

theorem openLoad_rest_stg (e : Env) (s : State) {g : Staging} (h : g.data = s.blk.stg.data) :
    runSteps e [openLoad e, openDone] (s.withStg g) = runSteps e [openLoad e, openDone] s := by
  rw [runSteps_cons, runSteps_cons, Turn.resume_state_withStg, State.blk_withStg, openLoad_withStg e _ h,
    Turn.resume_withStg openDone_stgFree.ignoresStg_singleton]

/-- The record ASSOC_OPEN reads replaces what `STG` held before the command. -/
theorem assocOpenRule_ignoresStg (e : Env) : IgnoresStg e (assocOpenRule e) := fun s g => by
  unfold assocOpenRule
  rw [runSteps_cons, runSteps_cons, Turn.resume_state_withStg, State.blk_withStg, openRead_stgFree]
  obtain ⟨_, h⟩ | ⟨_, h⟩ := openRead_cases s.blk
  · rw [h]; rfl
  · rw [h]
    exact openLoad_rest_stg e (answer e (s.issue (.nvRead s.blk.argSlot.toNat) s.blk) (.nvRead s.blk.argSlot.toNat))
      (g := { g with data := nvRecord e s.nv s.blk.argSlot.toNat }) rfl

theorem ruleOf_ignoresStg (e : Env) (i : Instr) : IgnoresStg e (ruleOf e i) := by
  cases i
  case nop | crcInit | crcUpdate | crcFinal | nonceBuild => exact fun _ _ => rfl
  case hdrEncode => exact hdrEncodeStep_stgFree.ignoresStg_singleton
  case validate => exact (validateStep_stgFree e).ignoresStg_singleton
  case decode => exact (decodeStep_stgFree e).ignoresStg_singleton
  case crcAppend => exact (crcAppendStep_stgFree e).ignoresStg_singleton
  case crcVerify => exact (crcVerifyStep_stgFree e).ignoresStg_singleton
  case assocOpen => exact assocOpenRule_ignoresStg e
  case assocRekey => exact (rekeyStart_stgFree e).ignoresStg_cons openDone_stgFree.ignoresStg_singleton
  case txNext => exact (txNextStep_stgFree e).ignoresStg_singleton
  case rxCheck => exact rxCheckStep_stgFree.ignoresStg_singleton
  case rxCommit => exact rxCommitStep_stgFree.ignoresStg_singleton
  case rxRatchet => exact rxRatchetStep_stgFree.ignoresStg_singleton
  case secEncode => exact (secEncodeStart_replacesStg e).ignoresStg_cons _
  case secDecode => exact (secDecodeStart_replacesStg e).ignoresStg_cons _

/-- Settles O60: no step reads what `STG` held before the command; SEC_ENCODE, SEC_DECODE and ASSOC_OPEN overwrite it
first. -/
theorem stagingContentsDoNotMatter : Obligations.StagingContentsDoNotMatter := by
  intro i s g
  rw [exec_eq_execWith, exec_eq_execWith]
  exact congrArg Host.Outcome.next (ruleOf_ignoresStg Config.env i s g)

end Sys2Proof.Machine
end

section
/-! SUPPORT. The refusals of 45_system R328 as whole commands, facts of the block along a rule, and that a pair which is not
fresh on a slot stays so through every command but ASSOC_REKEY on it (O42, O44). -/

namespace Sys2Proof.Machine

/-! Refusals -/

theorem runSteps_withOpenSlot_badSlot (e : Env) (f : Nat → Block → Turn) (rest : Rule) {s : State}
    (h : Config.pAssoc ≤ s.blk.argSlot.toNat) :
    runSteps e (withOpenSlot f :: rest) s = Completed s .invalidSlot s.blk := by
  obtain ⟨_, hf⟩ | ⟨hlt, _⟩ | ⟨hlt, _⟩ := withOpenSlot_cases f s.blk
  · exact runSteps_finish e hf
  · omega
  · omega

theorem runSteps_withOpenSlot_closedSlot (e : Env) (f : Nat → Block → Turn) (rest : Rule) {s : State}
    (h : s.blk.argSlot.toNat < Config.pAssoc) (hc : (s.blk.slot s.blk.argSlot.toNat).isOpen = false) :
    runSteps e (withOpenSlot f :: rest) s = Completed s .notOpen s.blk := by
  obtain ⟨hge, _⟩ | ⟨_, _, hf⟩ | ⟨_, ho, _⟩ := withOpenSlot_cases f s.blk
  · omega
  · exact runSteps_finish e hf
  · simp [hc] at ho

section
variable {i : Instr} {f : Nat → Block → Turn} {rest : Rule} (hi : ruleOf Config.env i = withOpenSlot f :: rest)
include hi

theorem refusesBadSlot_of_withOpenSlot : RefusesBadSlot i := fun s h => by
  rw [exec_eq_execWith, execWith, hi, runSteps_withOpenSlot_badSlot _ _ _ h]

theorem refusesClosedSlot_of_withOpenSlot : RefusesClosedSlot i := fun s h hc => by
  rw [exec_eq_execWith, execWith, hi, runSteps_withOpenSlot_closedSlot _ _ _ h hc]

end

/-- Settles O42: the rules of both commands begin with `withOpenSlot`. -/
theorem secureCommandsRefuseBadOrClosedSlot : Obligations.SecureCommandsRefuseBadOrClosedSlot :=
  ⟨refusesBadSlot_of_withOpenSlot rfl, refusesClosedSlot_of_withOpenSlot rfl,
    refusesBadSlot_of_withOpenSlot rfl, refusesClosedSlot_of_withOpenSlot rfl⟩

/-! Facts of the block along a rule -/

/-- A fact of the block that no answer and no completion changes: it speaks neither of `STG` nor of the count of draws. -/
def Lasting (Q : Block → Prop) : Prop := ∀ (b : Block) (g : Staging) (d : Nat), Q b → Q { b with stg := g, draws := d }

theorem Lasting.answer {Q : Block → Prop} (hQ : Lasting Q) (e : Env) {s : State} (q : Request) (h : Q s.blk) :
    Q (answer e s q).blk := by
  obtain ⟨_, _, _, ha⟩ | ⟨_, g, d, ha⟩ := answer_cases e s q
  · rw [ha]; exact h
  · rw [ha]; exact hQ _ g d h

/-- A step ends the command with a block of which `Q` holds, or leaves one of which `R` holds. -/
def Turn.Yields (Q R : Block → Prop) : Turn → Prop
  | .finish _ b => Q b
  | .go b => R b
  | .ask _ b => R b

theorem Turn.yields_self {Q : Block → Prop} {t : Turn} (h : Q t.blk) : t.Yields Q Q := by
  cases t <;> exact h

/-- A fact holds at the end of a command when its first step yields it, or yields what its rest needs for it. -/
theorem runSteps_of_yields (e : Env) {Q R : Block → Prop} (hQ : Lasting Q) (hR : Lasting R) {f : Block → Turn}
    {rest : Rule} {s : State} (hf : (f s.blk).Yields Q R) (hrest : ∀ t : State, R t.blk → Q (runSteps e rest t).blk) :
    Q (runSteps e (f :: rest) s).blk := by
  cases h : f s.blk with
  | finish c b => rw [h] at hf; rw [runSteps_finish e h]; exact hQ b _ b.draws hf
  | go b => rw [h] at hf; rw [runSteps_go e h]; exact hrest _ hf
  | ask q b => rw [h] at hf; rw [runSteps_ask e h]; exact hrest _ (hR.answer e q hf)

/-- A fact that each step of a rule keeps is kept by the rule. -/
theorem runSteps_invariant (e : Env) {Q : Block → Prop} (hQ : Lasting Q) {rule : Rule}
    (h : ∀ f ∈ rule, ∀ b : Block, Q b → Q (f b).blk) {s : State} (hs : Q s.blk) : Q (runSteps e rule s).blk := by
  induction rule generalizing s with
  | nil => exact hQ s.blk _ s.blk.draws hs
  | cons f rest ih =>
    exact runSteps_of_yields e hQ hQ (Turn.yields_self (h f (.head _) s.blk hs)) fun t ht =>
      ih (fun g hg => h g (.tail _ hg)) ht

theorem withSlot_blk {P : Block → Prop} {f : Nat → Block → Turn} {b : Block} (hb : P b)
    (h : P (f b.argSlot.toNat b).blk) : P (withSlot f b).blk := by
  obtain ⟨_, he⟩ | ⟨_, he⟩ := withSlot_cases f b <;> rw [he] <;> assumption

theorem withOpenSlot_blk {P : Block → Prop} {f : Nat → Block → Turn} {b : Block} (hb : P b)
    (h : P (f b.argSlot.toNat b).blk) : P (withOpenSlot f b).blk := by
  obtain ⟨_, he⟩ | ⟨_, _, he⟩ | ⟨_, _, he⟩ := withOpenSlot_cases f b <;> rw [he] <;> assumption

/-! The steps that leave the slot file -/

@[simp] theorem hdrEncodeStep_slots (b : Block) : (hdrEncodeStep b).blk.slots = b.slots := by
  unfold hdrEncodeStep; dsimp only; split_ifs <;> rfl

@[simp] theorem validateStep_slots (e : Env) (b : Block) : (validateStep e b).blk.slots = b.slots := by
  unfold validateStep; split_ifs <;> rfl

@[simp] theorem decodeStep_slots (e : Env) (b : Block) : (decodeStep e b).blk.slots = b.slots := by
  unfold decodeStep; split_ifs <;> rfl

@[simp] theorem crcAppendStep_slots (e : Env) (b : Block) : (crcAppendStep e b).blk.slots = b.slots := by
  unfold crcAppendStep; split_ifs <;> rfl

@[simp] theorem crcVerifyStep_slots (e : Env) (b : Block) : (crcVerifyStep e b).blk.slots = b.slots := by
  unfold crcVerifyStep; split_ifs <;> rfl

@[simp] theorem rxCheckStep_slots (b : Block) : (rxCheckStep b).blk.slots = b.slots :=
  withOpenSlot_blk (P := fun b' => b'.slots = b.slots) rfl (by split_ifs <;> rfl)

@[simp] theorem secEncodeFinish_slots (b : Block) : (secEncodeFinish b).blk.slots = b.slots := by
  unfold secEncodeFinish; dsimp only; split_ifs <;> rfl

@[simp] theorem takeSeed_slots (e : Env) (b : Block) : (takeSeed e b).2.slots = b.slots := by
  obtain ⟨_, h⟩ | ⟨_, h⟩ := takeSeed_cases e b <;> rw [h]

/-! Counter pairs that are not fresh -/

theorem lexGt_self (r m : Ctr) : lexGt r m r m = false := by simp [lexGt]

/-- What is not above a pair is not above what is above that pair. -/
theorem lexGt_eq_false_of_lexGt {a b c d r m : Ctr} (h : lexGt a b c d = false) (h' : lexGt r m c d = true) :
    lexGt a b r m = false := by
  simp only [lexGt, Bool.or_eq_false_iff, Bool.and_eq_false_iff, Bool.or_eq_true, Bool.and_eq_true, decide_eq_false_iff_not,
    decide_eq_true_eq, beq_iff_eq, beq_eq_false_iff_ne] at *
  bv_omega

theorem Slot.fresh_eq_false_iff (sl : Slot) (r m : Ctr) :
    sl.fresh r m = false ↔ sl.rxLav = true ∧ lexGt r m sl.rxLr sl.rxLm = false := by
  simp [Slot.fresh]

/-- Recording a fresh pair raises the recorded pair, so no other pair becomes fresh. -/
theorem Slot.fresh_recordPair {sl : Slot} {r m r' m' : Ctr} (h : sl.fresh r m = false) (h' : sl.fresh r' m' = true) :
    (sl.recordPair r' m').fresh r m = false := by
  rw [Slot.fresh_eq_false_iff] at h ⊢
  obtain ⟨hlav, hle⟩ := h
  have hgt : lexGt r' m' sl.rxLr sl.rxLm = true := by simpa [Slot.fresh, hlav] using h'
  exact ⟨rfl, lexGt_eq_false_of_lexGt hle hgt⟩

/-- The pair is not fresh on slot `k`. -/
def Block.Stale (k : Nat) (r m : Ctr) (b : Block) : Prop := (b.slot k).fresh r m = false

/-- The pair would not be fresh on a slot into which ASSOC_OPEN loads the record (43_replayguard R237). -/
def RecordStale (r m : Ctr) (rec : List Byte) : Prop :=
  (byteAt rec 3 != 0x00) = true ∧ lexGt r m (be24At rec 4) (be24At rec 7) = false

theorem recordStale_of_nvMatches {e : Env} {k : Nat} {s : State} {r m : Ctr} (h : NvMatches e k s)
    (ho : (s.blk.slot k).isOpen = true) (hs : s.blk.Stale k r m) : RecordStale r m (nvRecord e s.nv k) := by
  obtain ⟨_, hlav, hlr, hlm⟩ := h ho
  rw [RecordStale, hlav, hlr, hlm]
  exact (Slot.fresh_eq_false_iff _ r m).1 hs

section
variable {k : Nat} {r m : Ctr} {b : Block}

theorem lasting_stale : Lasting (Block.Stale k r m) := fun _ _ _ h => h

theorem Block.Stale.of_slots {b' : Block} (h : b.Stale k r m) (hb : b'.slots = b.slots) : b'.Stale k r m := by
  unfold Block.Stale Block.slot at *
  rwa [hb]

theorem Block.Stale.setSlot (h : b.Stale k r m) {j : Nat} {sl : Slot} (hsl : j = k → sl.fresh r m = false) :
    (b.setSlot j sl).Stale k r m := by
  by_cases hlt : j < Config.pAssoc
  · rw [Block.Stale, slot_setSlot b hlt]
    split_ifs with hk
    · exact hsl hk.symm
    · exact h
  · exact h.of_slots (Vector.setIfInBounds_eq_of_size_le (by omega))

theorem Block.Stale.advance (e : Env) (h : b.Stale k r m) (j : Nat) : (advance e j b).1.Stale k r m := by
  obtain ⟨_, ha⟩ | ⟨_, _, ha⟩ | ⟨_, _, ha⟩ := advance_cases e j b
  · rw [ha]; exact h.setSlot fun hj => hj ▸ h
  · rw [ha]; exact (h.of_slots (takeSeed_slots e b)).setSlot fun hj => hj ▸ h
  · rw [ha]; exact h.setSlot fun hj => hj ▸ h

theorem Block.Stale.commitTurn (h : b.Stale k r m) {j : Nat} {r' m' : Ctr} (hf : j = k → (b.slot k).fresh r' m' = true) :
    (commitTurn j r' m' b).blk.Stale k r m :=
  h.setSlot fun hj => by subst hj; exact Slot.fresh_recordPair h (hf rfl)

/-! The steps that write the slot file -/

theorem openLoad_stale (e : Env) (h : b.Stale k r m) (hd : b.argSlot.toNat = k → RecordStale r m b.stg.data) :
    (openLoad e b).blk.Stale k r m := by
  have hload (sl : Slot) (hlav : sl.rxLav = (byteAt b.stg.data 3 != 0x00)) (hlr : sl.rxLr = be24At b.stg.data 4)
      (hlm : sl.rxLm = be24At b.stg.data 7) (hj : b.argSlot.toNat = k) : sl.fresh r m = false := by
    rw [Slot.fresh_eq_false_iff, hlav, hlr, hlm]; exact hd hj
  unfold openLoad
  dsimp only
  split_ifs
  · exact h.setSlot (hload _ rfl rfl rfl)
  · exact (h.of_slots (takeSeed_slots e b)).setSlot (hload _ rfl rfl rfl)

theorem openDone_stale (h : b.Stale k r m) : (openDone b).blk.Stale k r m := h.setSlot fun hj => hj ▸ h

theorem rekeyStart_stale (e : Env) (h : b.Stale k r m) (hk : b.argSlot.toNat ≠ k) : (rekeyStart e b).blk.Stale k r m :=
  withSlot_blk h ((h.of_slots (takeSeed_slots e b)).setSlot fun hj => absurd hj hk)

theorem txNextStep_stale (e : Env) (h : b.Stale k r m) : (txNextStep e b).blk.Stale k r m :=
  withOpenSlot_blk h <| by
    split_ifs
    · exact h
    · rw [Turn.blk_askIf]; refine Block.Stale.advance e ?_ _; exact h

theorem rxCommitStep_stale (h : b.Stale k r m) : (rxCommitStep b).blk.Stale k r m :=
  withOpenSlot_blk h <| by
    split_ifs with hf
    · exact h.commitTurn fun hj => hj ▸ hf
    · exact h

theorem rxRatchetStep_stale (h : b.Stale k r m) : (rxRatchetStep b).blk.Stale k r m :=
  withOpenSlot_blk h <| by
    split_ifs with hf
    · exact h.commitTurn fun hj => hj ▸ hf
    · exact h

theorem secEncodeStart_stale (e : Env) (h : b.Stale k r m) : (secEncodeStart e b).blk.Stale k r m :=
  withOpenSlot_blk h <| by
    split_ifs
    · exact h
    · exact h
    · rw [Turn.blk_askIf]; refine Block.Stale.advance e ?_ _; exact h

/-- Between SEC_DECODE's checks and its commit: the pair of the frame in FB is still fresh on the slot of the command. -/
def Block.TrailerFresh (e : Env) (k : Nat) (b : Block) : Prop :=
  b.argSlot.toNat = k → (b.slot k).fresh (trailerR (b.fb e)) (trailerM (b.fb e)) = true

theorem secDecodeStart_yields (e : Env) (h : b.Stale k r m) :
    (secDecodeStart e b).Yields (Block.Stale k r m) fun b => b.Stale k r m ∧ b.TrailerFresh e k := by
  obtain ⟨_, he⟩ | ⟨_, _, he⟩ | ⟨_, _, he⟩ := withOpenSlot_cases _ b
  · rw [secDecodeStart, he]; exact h
  · rw [secDecodeStart, he]; exact h
  · rw [secDecodeStart, he]
    dsimp only
    split_ifs with _ _ hf
    · exact h
    · exact h
    · exact h
    · have hf' : (b.slot b.argSlot.toNat).fresh (trailerR (b.fb e)) (trailerM (b.fb e)) = true := by simpa using hf
      exact ⟨h, fun hj => by subst hj; exact hf'⟩

theorem secDecodeCommit_stale (e : Env) (h : b.Stale k r m) (hf : b.TrailerFresh e k) :
    (secDecodeCommit e b).blk.Stale k r m := by
  unfold secDecodeCommit
  split_ifs
  · exact h
  · split
    · exact h
    · exact Block.Stale.commitTurn (b := { b with stg := _ }) h hf

end

/-! Every command -/

/-- No command but ASSOC_REKEY on the slot makes a pair fresh again; of ASSOC_OPEN, the record it loads must not. -/
theorem runSteps_ruleOf_stale (e : Env) (i : Instr) {s : State} {k : Nat} {r m : Ctr}
    (hi : i ≠ .assocRekey ∨ s.blk.argSlot.toNat ≠ k)
    (hnv : s.blk.argSlot.toNat = k → RecordStale r m (nvRecord e s.nv k)) (hs : s.blk.Stale k r m) :
    (runSteps e (ruleOf e i) s).blk.Stale k r m := by
  have single {f : Block → Turn} (hf : (f s.blk).blk.Stale k r m) : (runSteps e [f] s).blk.Stale k r m :=
    runSteps_of_yields e lasting_stale lasting_stale (Turn.yields_self hf) fun _ ht => ht
  have opened {t : State} (ht : t.blk.Stale k r m) : (runSteps e [openDone] t).blk.Stale k r m := openDone_stale ht
  cases i
  case nop | crcInit | crcUpdate | crcFinal | nonceBuild => exact hs
  case hdrEncode => exact single (hs.of_slots (hdrEncodeStep_slots _))
  case validate => exact single (hs.of_slots (validateStep_slots e _))
  case decode => exact single (hs.of_slots (decodeStep_slots e _))
  case crcAppend => exact single (hs.of_slots (crcAppendStep_slots e _))
  case crcVerify => exact single (hs.of_slots (crcVerifyStep_slots e _))
  case rxCheck => exact single (hs.of_slots (rxCheckStep_slots _))
  case txNext => exact single (txNextStep_stale e hs)
  case rxCommit => exact single (rxCommitStep_stale hs)
  case rxRatchet => exact single (rxRatchetStep_stale hs)
  case assocRekey =>
    have hk : s.blk.argSlot.toNat ≠ k := by simpa using hi
    exact runSteps_of_yields e lasting_stale lasting_stale (Turn.yields_self (rekeyStart_stale e hs hk)) fun _ => opened
  case assocOpen =>
    obtain ⟨_, h⟩ | ⟨_, h⟩ := openRead_cases s.blk
    · rw [ruleOf, assocOpenRule, runSteps_finish e h]; exact hs
    · rw [ruleOf, assocOpenRule, runSteps_ask e h]
      refine runSteps_of_yields e lasting_stale lasting_stale (Turn.yields_self (openLoad_stale e hs ?_)) fun _ => opened
      rintro rfl; exact hnv rfl
  case secEncode =>
    refine runSteps_invariant e lasting_stale (fun f hf b hb => ?_) hs
    obtain rfl | rfl | rfl : f = secEncodeStart e ∨ f = secEncodeSeal ∨ f = secEncodeFinish := by
      simpa [ruleOf, secEncodeRule] using hf
    · exact secEncodeStart_stale e hb
    · exact hb
    · exact hb.of_slots (secEncodeFinish_slots b)
  case secDecode =>
    refine runSteps_of_yields e lasting_stale (fun _ _ _ h => h) (secDecodeStart_yields e hs) fun t ⟨ht, hf⟩ => ?_
    exact runSteps_of_yields e lasting_stale lasting_stale (Turn.yields_self (secDecodeCommit_stale e ht hf)) fun u hu => hu

/-- Settles O44: the recorded pair itself is not fresh on its slot, and so is not fresh after the command. -/
theorem recordedPairNeverDecreases : Obligations.RecordedPairNeverDecreases := by
  intro i s k hi _ hnv ho hlav
  have hs : s.blk.Stale k (s.blk.slot k).rxLr (s.blk.slot k).rxLm :=
    (Slot.fresh_eq_false_iff _ _ _).2 ⟨hlav, lexGt_self _ _⟩
  have ht := runSteps_ruleOf_stale Config.env i hi (fun _ => recordStale_of_nvMatches hnv ho hs) hs
  exact ⟨_, exec_eq_execWith i s, (Slot.fresh_eq_false_iff _ _ _).1 ht⟩

end Sys2Proof.Machine
end

section
/-! SUPPORT. The steps that run a started command (O4), `STATUS` (O15), the keys at the host port (O17), and the reset state
(O19, O57). -/

namespace Sys2Proof.Machine

/-! The step that runs a started command -/

theorem decodeByte_of_decodeTableWord {nbits w : Nat} {i : Instr} (h : decodeTableWord nbits w = some i) :
    decodeByte (tableByte nbits w) = .ok i := by
  unfold decodeTableWord at h
  split at h
  next hd => rw [hd, Option.some.inj h]
  next => cases h

section
variable {s : State} {op : Byte} {i : Instr} (hd : decodeByte op = .ok i) (hp : s.phase = .busy op 0 none)
include hd hp

theorem runCommand_started (e : Env) (ex : Instr → State → Host.Outcome State Fault Refusal) :
    runCommand e ex s = ex i s := by
  simp [runCommand, hp, hd]

theorem step_started (h : s.inputs = []) : step s = exec i s := by
  simp [step, stepWith, h, runCommand_started hd hp]

theorem step_run {rest : List Event} (h : s.inputs = .run :: rest) : step s = exec i { s with inputs := rest } := by
  simp only [step, stepWith, h, handleEvent]
  exact runCommand_started hd (s := { s with inputs := rest }) hp _ _

end

/-- Settles O4: a command that has just started is handed to `exec`, by `run` or with no event pending. -/
theorem stepRunsStartedCommand : Obligations.StepRunsStartedCommand :=
  ⟨fun _ _ _ hd hp => ⟨step_started hd hp, fun _ => step_run hd hp⟩,
    fun _ _ _ _ h => step_started (decodeByte_of_decodeTableWord h) rfl rfl⟩

/-! `STATUS` -/

/-- The fields of a byte put together as `STATUS` is (10_state R35). -/
theorem statusByte_fields (werr err done busy : Bool) :
    let b : Byte := (0 : BitVec 4) ++ BitVec.ofBool werr ++ BitVec.ofBool err ++ BitVec.ofBool done ++ BitVec.ofBool busy
    b.getLsbD 0 = busy ∧ b.getLsbD 1 = done ∧ b.getLsbD 2 = err ∧ b.getLsbD 3 = werr ∧ b.extractLsb' 4 4 = 0 := by
  revert werr err done busy
  decide

theorem hostWrite_status {s : State} (h : s.phase = .idle) (v : Byte) : s.hostWrite 0x201 v = s.clearStatus v := by
  rw [hostWrite_idle h]; rfl

/-- Settles O15: `STATUS` reads as itself, busy or idle, and a write to it while IDLE is `clearStatus`. -/
theorem statusFieldsAndWriteOneToClear : Obligations.StatusFieldsAndWriteOneToClear := by
  refine ⟨fun e s => ?_, fun s => statusByte_fields s.werr s.errBit s.done s.isBusy, fun s v h => ?_⟩
  · obtain ⟨_, hstatus, _⟩ := hostRead_always e s
    exact hstatus
  · rw [hostWrite_status h, State.clearStatus]
    cases v.getLsbD 1 <;> cases v.getLsbD 3 <;> simp

/-! Keys -/

/-- A slot of a state with other keys differs from the state's in its key. -/
theorem slot_withKeys (s : State) (keys : Vector (BitVec 128) Config.pAssoc) (k : Nat) :
    ∃ key, (s.withKeys keys).blk.slot k = { s.blk.slot k with key := key } := by
  by_cases hk : k < Config.pAssoc
  · exact ⟨keys[k], by simp [State.withKeys, Block.slot, hk]⟩
  · exact ⟨0, by simp [State.withKeys, Block.slot, hk, Slot.reset]⟩

/-- The slot window shows no key (10_state R51). -/
theorem readWindow_withKeys (s : State) (keys : Vector (BitVec 128) Config.pAssoc) (a : Nat) :
    (s.withKeys keys).readWindow a = s.readWindow a := by
  obtain ⟨key, h⟩ := slot_withKeys s keys s.assocSel.toNat
  change (if _ then ((s.withKeys keys).blk.slot s.assocSel.toNat).windowByte a else 0) = _
  rw [h]
  rfl

/-- The slot file is read through the slot window only. -/
theorem hostRead_withKeys (e : Env) (s : State) (keys : Vector (BitVec 128) Config.pAssoc) (a : HostAddr) :
    (s.withKeys keys).hostRead e a = s.hostRead e a := by
  unfold State.hostRead State.readLocation
  rw [readWindow_withKeys]
  rfl

/-- A write inside the slot window is one of the selected slot (20_memory R82). -/
theorem writeLocation_window (s : State) {a : Nat} (h : 0x251 ≤ a) (h' : a < 0x280) (v : Byte) :
    s.writeLocation a v = s.writeWindow a v := by
  simp [State.writeLocation, bufEnd, h', show ¬ a < 512 by omega, show a ≠ 0x200 by omega, show a ≠ 0x201 by omega,
    show ¬ a < 0x212 by omega, show ¬ a < 0x215 by omega, show ¬ a < 0x218 by omega, show ¬ a < 0x227 by omega,
    show ¬ a < 0x250 by omega, show a ≠ 0x250 by omega]

theorem writeWindow_key (sl : Slot) (i : Nat) (v : Byte) :
    sl.writeWindow (0x270 + i) v = { sl with key := setByte sl.key i v } := by
  simp [Slot.writeWindow, show 0x270 + i ≠ 0x251 by omega, show ¬ 0x270 + i < 0x25A by omega]

/-- A write to a byte of `A_KEY` while IDLE, `ASSOC_SEL` naming a slot (10_state R51, R57). -/
theorem hostWrite_key {s : State} (h : s.phase = .idle) (hs : s.assocSel.toNat < Config.pAssoc) {i : Nat} (hi : i < 16)
    (v : Byte) :
    s.hostWrite (BitVec.ofNat 10 (0x270 + i)) v = { s with
      blk := s.blk.setSlot s.assocSel.toNat
        { s.blk.slot s.assocSel.toNat with key := setByte (s.blk.slot s.assocSel.toNat).key i v } } := by
  have ha : (BitVec.ofNat 10 (0x270 + i)).toNat = 0x270 + i := by
    rw [BitVec.toNat_ofNat]; omega
  rw [hostWrite_idle h, ha, writeLocation_window s (by omega) (by omega), State.writeWindow, if_pos hs, writeWindow_key]

/-- Settles O17: keys are read nowhere, and a write to `A_KEY[i]` replaces the selected slot by one with another key. -/
theorem keysAreWriteOnly : Obligations.KeysAreWriteOnly := by
  refine ⟨hostRead_withKeys, fun s i v h hs hi => ⟨_, rfl, ?_⟩⟩
  rw [hostWrite_key h hs hi]
  refine ⟨rfl, fun k hk => slot_setSlot_ne _ hs hk _, _, slot_setSlot_same _ hs _, fun j hj => ?_⟩
  exact getByte_setByte _ i j v (by omega) (by omega)

/-! The reset state -/

@[simp] theorem slot_reset (k : Nat) : State.reset.blk.slot k = Slot.reset := by
  by_cases hk : k < Config.pAssoc <;> simp [State.reset, Block.reset, Block.slot, hk]

/-- Settles O57: the memories are empty, every slot is closed and not exhausted, and `STG` holds nothing. -/
theorem resetMeetsInvariant : Obligations.ResetMeetsInvariant where
  mem := rfl
  nv := rfl
  slots k _ := by rw [slot_reset]; exact ⟨fun _ => rfl, fun h => by cases h⟩
  phase := rfl

@[simp] theorem getByte_zero (w i : Nat) : getByte (0 : BitVec w) i = 0 := by
  simp [getByte]

/-- Above the slot window only the identification registers are read (20_memory R82). -/
theorem readLocation_info (e : Env) (s : State) {a : Nat} (h : 0x280 ≤ a) : s.readLocation e a = readInfo a := by
  simp [State.readLocation, bufEnd, show ¬ a < 512 by omega, show ¬ a < 0x212 by omega, show ¬ a < 0x215 by omega,
    show ¬ a < 0x218 by omega, show ¬ a < 0x227 by omega, show ¬ a < 0x228 by omega, show ¬ a < 0x234 by omega,
    show ¬ a < 0x240 by omega, show ¬ a < 0x250 by omega, show a ≠ 0x250 by omega, show ¬ a < 0x280 by omega]

theorem windowByte_reset (a : Nat) : Slot.reset.windowByte a = 0 := by
  have hcfg : Slot.reset.cfgByte = 0 := rfl
  rw [Slot.windowByte, hcfg]
  simp only [Slot.reset, getByte_zero, ite_self]

theorem readWindow_reset (a : Nat) : State.reset.readWindow a = 0 := by
  rw [State.readWindow, slot_reset, windowByte_reset, ite_self]

theorem decoded_byteAt_reset (i : Nat) : Decoded.reset.byteAt i = 0 := by
  unfold Decoded.byteAt; split <;> rfl

/-- The registers between the control registers and the identification registers are 0 after reset. -/
theorem readLocation_reset_eq_zero (e : Env) {n : Nat} (h : 0x212 ≤ n) (h' : n < 0x280) :
    State.reset.readLocation e n = 0 := by
  have hz : State.reset.blk.argR = 0 ∧ State.reset.blk.argM = 0 ∧ State.reset.blk.argId = 0 ∧
    State.reset.blk.iv = 0 ∧ State.reset.blk.dec = Decoded.reset ∧ State.reset.assocSel = 0 := ⟨rfl, rfl, rfl, rfl, rfl, rfl⟩
  simp only [State.readLocation, bufEnd, hz, getByte_zero, decoded_byteAt_reset, readWindow_reset, if_pos h', ite_self,
    if_neg (show ¬ n < 0x200 by omega), if_neg (show ¬ n < 0x212 by omega)]

/-- What each location above the buffers holds after reset (10_state R62). -/
theorem readLocation_reset (e : Env) {n : Nat} (h : 0x200 ≤ n) : State.reset.readLocation e n =
    if n = 0x203 then 0x02 else if n = 0x20E then 0xFF else if n = 0x210 then 0x7F
    else if n = 0x280 then 0x5B else if n = 0x281 then 0x01 else if n = 0x282 then BitVec.ofNat 8 Config.pAssoc
    else 0x00 := by
  rcases Nat.lt_or_ge n 0x212 with hc | hc
  · interval_cases n <;> rfl
  rw [if_neg (show n ≠ 0x203 by omega), if_neg (show n ≠ 0x20E by omega), if_neg (show n ≠ 0x210 by omega)]
  rcases Nat.lt_or_ge n 0x280 with hw | hw
  · rw [readLocation_reset_eq_zero e hc hw, if_neg (by omega), if_neg (by omega), if_neg (by omega)]
  · rw [readLocation_info e _ hw]
    rfl

/-- Settles O19: by the regions of the address map, and slot by slot. -/
theorem resetValues : Obligations.ResetValues := by
  refine ⟨rfl, fun e a h => ?_, fun e a h => ?_, slot_reset, rfl⟩
  · rw [hostRead_idle e rfl, readLocation_reset e h]
    simp only [BitVec.toNat_eq]
    rfl
  · rw [hostRead_idle e rfl, State.readLocation, bufEnd, if_pos h]
    rfl

end Sys2Proof.Machine
end

section
/-! SUPPORT. The address map (20_memory R82): what the Host reads in each region of it, idle and busy, and which writes are
ignored (O6, O11, O12, O14). -/

namespace Sys2Proof.Machine

/-! A host access is one step -/

/-- Settles O6: the event is handled with the schedule's head removed, and no read depends on the schedule. -/
theorem hostAccessIsOneStep : Obligations.HostAccessIsOneStep := by
  intro s a rest
  refine ⟨fun h => ?_, fun v h => ?_⟩
  · simp only [step, stepWith, h, handleEvent]
    rfl
  · simp only [step, stepWith, h, handleEvent]

/-! The busy lockout -/

theorem hostRead_busy (e : Env) {s : State} {op : Byte} {n : Nat} {req : Option Request} (h : s.phase = .busy op n req)
    {a : HostAddr} (hcmd : a ≠ Addr.cmd) (hstatus : a ≠ Addr.status) (hresult : a ≠ Addr.result) : s.hostRead e a = 0 := by
  simp [State.hostRead, isBusy_busy h, hcmd, hstatus, hresult]

/-- Settles O11: a busy write is dropped, and a busy read sees the three registers that are always read. -/
theorem busyLocksOutTheHost : Obligations.BusyLocksOutTheHost := by
  intro e s op n req h
  obtain ⟨hcmd, hstatus, hresult⟩ := hostRead_always e s
  exact ⟨hostWrite_busy h, hcmd, hstatus, hresult, fun a => hostRead_busy e h⟩

/-! Reads, region by region -/

section
variable (e : Env) (s : State) {a : Nat}

theorem readLocation_buffer (h : a < 0x200) : s.readLocation e a = s.blk.bufByte e a := if_pos h

theorem readLocation_control (h : 0x200 ≤ a) (h' : a < 0x212) : s.readLocation e a = s.readControl a := by
  simp (disch := omega) only [State.readLocation, bufEnd, if_pos, if_neg]

theorem readLocation_argR (h : 0x212 ≤ a) (h' : a < 0x215) : s.readLocation e a = getByte s.blk.argR (a - 0x212) := by
  simp (disch := omega) only [State.readLocation, bufEnd, if_pos, if_neg]

theorem readLocation_argM (h : 0x215 ≤ a) (h' : a < 0x218) : s.readLocation e a = getByte s.blk.argM (a - 0x215) := by
  simp (disch := omega) only [State.readLocation, bufEnd, if_pos, if_neg]

theorem readLocation_argId (h : 0x218 ≤ a) (h' : a < 0x227) : s.readLocation e a = getByte s.blk.argId (a - 0x218) := by
  simp (disch := omega) only [State.readLocation, bufEnd, if_pos, if_neg]

theorem readLocation_iv (h : 0x228 ≤ a) (h' : a < 0x234) : s.readLocation e a = getByte s.blk.iv (a - 0x228) := by
  simp (disch := omega) only [State.readLocation, bufEnd, if_pos, if_neg]

theorem readLocation_decoded (h : 0x240 ≤ a) (h' : a < 0x250) : s.readLocation e a = s.blk.dec.byteAt (a - 0x240) := by
  simp (disch := omega) only [State.readLocation, bufEnd, if_pos, if_neg]

theorem readLocation_eq_readWindow (h : 0x251 ≤ a) (h' : a < 0x280) : s.readLocation e a = s.readWindow a := by
  simp (disch := omega) only [State.readLocation, bufEnd, if_pos, if_neg]

end

/-! Reserved and read-only locations -/

theorem decoded_byteAt_reserved (d : Decoded) {i : Nat} (h : 9 ≤ i) : d.byteAt i = 0 := by
  unfold Decoded.byteAt
  split
  case h_10 => rfl
  all_goals omega

theorem windowByte_reserved (sl : Slot) {a : Nat} (h : 0x266 ≤ a) : sl.windowByte a = 0 := by
  simp (disch := omega) only [Slot.windowByte, if_neg]

theorem readInfo_reserved {a : Nat} (h : 0x283 ≤ a) : readInfo a = 0 := by
  simp (disch := omega) only [readInfo, if_neg]

theorem readWindow_noSlot {s : State} (h : Config.pAssoc ≤ s.assocSel.toNat) (a : Nat) : s.readWindow a = 0 :=
  if_neg (by omega)

theorem writeWindow_noSlot {s : State} (h : Config.pAssoc ≤ s.assocSel.toNat) (a : Nat) (v : Byte) :
    s.writeWindow a v = s :=
  if_neg (by omega)

/-- Reserved addresses hold 0 (20_memory R83). -/
theorem readLocation_reserved (e : Env) (s : State) {a : HostAddr} (h : reservedAddr a = true) :
    s.readLocation e a.toNat = 0 := by
  simp only [reservedAddr, Bool.or_eq_true, Bool.and_eq_true, beq_iff_eq, decide_eq_true_eq] at h
  obtain (((h | h) | h) | h) | h := h
  · simp (disch := omega) only [State.readLocation, bufEnd, if_pos, if_neg]
  · simp (disch := omega) only [State.readLocation, bufEnd, if_pos, if_neg]
  · rw [readLocation_decoded e s (by omega) (by omega), decoded_byteAt_reserved _ (by omega)]
  · rw [readLocation_eq_readWindow e s (by omega) (by omega), State.readWindow, windowByte_reserved _ (by omega), ite_self]
  · rw [readLocation_info e s (by omega), readInfo_reserved (by omega)]

theorem setSlot_self (b : Block) (k : Nat) : b.setSlot k (b.slot k) = b := by
  have hslots : b.slots.setIfInBounds k (b.slot k) = b.slots := by
    ext j hj
    by_cases h : k = j
    · subst h; simp [Block.slot, hj]
    · simp [h]
  rw [Block.setSlot, hslots]

/-- The counters and the reserved bytes of the slot window are not written (10_state R57). -/
theorem writeWindow_readOnly (s : State) {a : Nat} (h : 0x25A ≤ a) (h' : a < 0x270) (v : Byte) : s.writeWindow a v = s := by
  have hsl (sl : Slot) : sl.writeWindow a v = sl := by
    simp (disch := omega) only [Slot.writeWindow, if_pos, if_neg]
  rw [State.writeWindow, hsl, setSlot_self, ite_self]

/-- No register is written from 0x227 to 0x24F or above the slot window. -/
theorem writeLocation_ignored (s : State) {a : Nat} (h : 0x227 ≤ a ∧ a < 0x250 ∨ 0x280 ≤ a) (v : Byte) :
    s.writeLocation a v = s := by
  obtain h | h := h <;> simp (disch := omega) only [State.writeLocation, bufEnd, if_pos, if_neg]

/-- Writes to reserved addresses and read-only locations are ignored (20_memory R83). -/
theorem writeLocation_reserved_readOnly (s : State) {a : HostAddr} (h : reservedAddr a = true ∨ readOnlyAddr a = true)
    (v : Byte) : s.writeLocation a.toNat v = s := by
  simp only [reservedAddr, readOnlyAddr, Bool.or_eq_true, Bool.and_eq_true, beq_iff_eq, decide_eq_true_eq] at h
  have hregion : a.toNat = 0x202 ∨ a.toNat = 0x211 ∨ (0x227 ≤ a.toNat ∧ a.toNat < 0x250 ∨ 0x280 ≤ a.toNat) ∨
      (0x25A ≤ a.toNat ∧ a.toNat < 0x270) := by omega
  obtain h | h | h | ⟨h, h'⟩ := hregion
  · rw [h]; rfl
  · rw [h]; rfl
  · exact writeLocation_ignored s h v
  · rw [writeLocation_window s (by omega) (by omega), writeWindow_readOnly s h h']

/-- Settles O12: by the regions of the address map; a window that names no slot reads 0 and takes no write. -/
theorem reservedAndReadOnlyWritesAreIgnored : Obligations.ReservedAndReadOnlyWritesAreIgnored := by
  intro e s h
  refine ⟨fun a ha => ?_, fun a v ha => ?_, fun hs a hlo hhi => ⟨?_, fun v => ?_⟩⟩
  · rw [hostRead_idle e h, readLocation_reserved e s ha]
  · rw [hostWrite_idle h, writeLocation_reserved_readOnly s ha]
  · rw [hostRead_idle e h, readLocation_eq_readWindow e s hlo (by omega), readWindow_noSlot hs]
  · rw [hostWrite_idle h, writeLocation_window s hlo (by omega), writeWindow_noSlot hs]

/-! Reads of the registers -/

/-- A read while IDLE of an address given by a number. -/
theorem hostRead_ofNat (e : Env) {s : State} (h : s.phase = .idle) {n : Nat} (hn : n < 0x400) :
    s.hostRead e (BitVec.ofNat 10 n) = s.readLocation e n := by
  rw [hostRead_idle e h, BitVec.toNat_ofNat, Nat.mod_eq_of_lt hn]

theorem hostRead_decoded (e : Env) {s : State} (h : s.phase = .idle) (i : Nat) (hi : i < 16) :
    s.hostRead e (BitVec.ofNat 10 (0x240 + i)) = s.blk.dec.byteAt i := by
  rw [hostRead_ofNat e h (by omega), readLocation_decoded e s (by omega) (by omega), Nat.add_sub_cancel_left]

theorem cfgByte_eq (sl : Slot) : sl.cfgByte = (0 : BitVec 4) ++ BitVec.ofBool sl.rxLav ++ BitVec.ofBool sl.txExh
    ++ BitVec.ofBool sl.isOpen ++ BitVec.ofBool (decide (sl.role = .source)) := by
  rw [Slot.cfgByte, beq_eq_decide]

/-- The slot window while IDLE shows the slot `ASSOC_SEL` names (10_state R57). -/
theorem hostRead_window (e : Env) {s : State} (h : s.phase = .idle) (hs : s.assocSel.toNat < Config.pAssoc) {a : HostAddr}
    (hlo : 0x251 ≤ a.toNat) (hhi : a.toNat < 0x280) :
    s.hostRead e a = (s.blk.slot s.assocSel.toNat).windowByte a.toNat := by
  rw [hostRead_idle e h, readLocation_window e hs hlo hhi]

theorem windowByte_nodeId (sl : Slot) {a : Nat} (h : 0x252 ≤ a) (h' : a < 0x25A) :
    sl.windowByte a = getByte sl.nodeId (a - 0x252) := by
  simp (disch := omega) only [Slot.windowByte, if_pos, if_neg]

/-- Settles O14: by the regions of the address map, a register of several bytes being its bytes. -/
theorem idleReadsShowTheRegisters : Obligations.IdleReadsShowTheRegisters := by
  intro e s h
  refine ⟨⟨fun i hi => ?_, fun i hi => ?_⟩, ?_, ?_, ⟨?_, ?_, fun i hi => ?_, fun i hi => ?_⟩, ?_, ?_, ?_, ?_⟩
  · rw [hostRead_ofNat e h (by omega), readLocation_buffer e s (by omega), Block.fb]
  · rw [hostRead_ofNat e h (by omega), readLocation_buffer e s (by omega), Block.pb, pbBase]
  · simp only [hostRead_idle e h]
    exact ⟨rfl, rfl, rfl, rfl, lenHigh_append_lenLow s.blk.fbLen, lenHigh_append_lenLow s.blk.pbLen⟩
  · simp only [hostRead_idle e h]
    exact ⟨rfl, rfl, rfl, rfl, rfl, rfl, rfl, rfl, rfl, rfl⟩
  · simp only [hostRead_idle e h]
    exact be24_getByte s.blk.argR
  · simp only [hostRead_idle e h]
    exact be24_getByte s.blk.argM
  · rw [hostRead_ofNat e h (by omega), readLocation_argId e s (by omega) (by omega), Nat.add_sub_cancel_left]
  · rw [hostRead_ofNat e h (by omega), readLocation_iv e s (by omega) (by omega), Nat.add_sub_cancel_left]
  · have hdec := hostRead_decoded e h
    exact ⟨hdec 0 (by decide), hdec 1 (by decide), hdec 2 (by decide), hdec 3 (by decide), hdec 4 (by decide),
      hdec 5 (by decide), hdec 6 (by decide), hdec 7 (by decide), hdec 8 (by decide)⟩
  · rw [hostRead_idle e h]; rfl
  · rintro sl hs rfl
    have hwindow (a : HostAddr) := hostRead_window e h hs (a := a)
    refine ⟨?cfg, fun i hi => ?nodeId, ?txRc, ?txMc, ?rxLr, ?rxLm, fun i hi => ?key⟩
    case cfg =>
      rw [hwindow _ (by decide) (by decide)]
      exact cfgByte_eq _
    case nodeId =>
      rw [hostRead_ofNat e h (by omega), readLocation_window e hs (by omega) (by omega),
        windowByte_nodeId _ (by omega) (by omega), Nat.add_sub_cancel_left]
    case key =>
      rw [hostRead_ofNat e h (by omega), readLocation_window e hs (by omega) (by omega), windowByte_reserved _ (by omega)]
    all_goals
      simp (disch := decide) only [hwindow]
      exact be24_getByte _
  · simp only [hostRead_idle e h]
    exact ⟨rfl, rfl, rfl⟩

end Sys2Proof.Machine
end

section
/-! SUPPORT. What the Host reads after a write of a read/write location (20_memory R82, R87; O13). -/

namespace Sys2Proof.Machine

/-! A byte stored within a mask -/

/-- A location whose bits in `mask` are stored from `v` and whose other bits stay as in `old`. -/
def storeBits (mask v old : Byte) : Byte := (v &&& mask) ||| (old &&& ~~~mask)

theorem storeBits_and_mask (mask v old : Byte) : storeBits mask v old &&& mask = v &&& mask := by
  ext i hi
  simp only [storeBits, BitVec.getElem_and, BitVec.getElem_or, BitVec.getElem_not]
  cases mask[i] <;> simp

theorem storeBits_and_not_mask (mask v old : Byte) : storeBits mask v old &&& ~~~mask = old &&& ~~~mask := by
  ext i hi
  simp only [storeBits, BitVec.getElem_and, BitVec.getElem_or, BitVec.getElem_not]
  cases mask[i] <;> simp

@[simp] theorem storeBits_full (v old : Byte) : storeBits 255#8 v old = v := by
  rw [storeBits, show 255#8 = BitVec.allOnes 8 from rfl, BitVec.and_allOnes, BitVec.not_allOnes, BitVec.and_zero,
    BitVec.or_zero]

/-- A register narrower than a byte reads 0 in the bits it does not have, and stores its own bits only. -/
theorem storeBits_setWidth {n : Nat} (v : Byte) (r : BitVec n) :
    storeBits ((BitVec.allOnes n).setWidth 8) v (r.setWidth 8) = (v.setWidth n).setWidth 8 := by
  ext i hi
  by_cases h : i < n
  · simp [storeBits, h, BitVec.getLsbD_eq_getElem hi]
  · simp [storeBits, h, BitVec.getLsbD_of_ge r i (by omega)]

/-- A field at bit 0 of a byte whose other bits are not stored. -/
theorem storeBits_append_bit (v : Byte) (r : BitVec 7) (b : Bool) :
    storeBits 0x01 v (r ++ BitVec.ofBool b) = r ++ BitVec.ofBool (v.getLsbD 0) := by
  have hv : v &&& 0x01 = (BitVec.ofBool (v.getLsbD 0)).setWidth 8 := by decide +revert
  rw [storeBits, hv]
  generalize v.getLsbD 0 = c
  decide +revert

theorem ctrlByte_written (b : Block) (v : Byte) :
    Block.ctrlByte { b with ie := v.getLsbD 0, pad31 := v.getLsbD 1 } = storeBits 0x03 v b.ctrlByte := by
  simp only [Block.ctrlByte, storeBits]
  generalize b.pad31 = p
  generalize b.ie = i
  revert v p i
  decide

@[simp] theorem lenHigh_setLenHigh (r : BitVec 9) (v : Byte) :
    lenHigh (setLenHigh r v) = storeBits 0x01 v (lenHigh r) := by
  rw [lenHigh, setLenHigh, BitVec.extractLsb'_append_eq_left, ← BitVec.setWidth_eq_extractLsb' (by decide)]
  exact (storeBits_setWidth v (r.extractLsb' 8 1)).symm

@[simp] theorem lenLow_setLenHigh (r : BitVec 9) (v : Byte) : lenLow (setLenHigh r v) = lenLow r :=
  BitVec.extractLsb'_append_eq_right

@[simp] theorem lenHigh_setLenLow (r : BitVec 9) (v : Byte) : lenHigh (setLenLow r v) = lenHigh r := by
  rw [lenHigh, setLenLow, BitVec.extractLsb'_append_eq_left, lenHigh]

@[simp] theorem lenLow_setLenLow (r : BitVec 9) (v : Byte) : lenLow (setLenLow r v) = v :=
  BitVec.extractLsb'_append_eq_right

/-! The control registers -/

/-- A write to a control register leaves the others as they read. -/
theorem readControl_writeControl_ne (s : State) {a x : Nat} (h : x ≠ a) (v : Byte) :
    State.readControl { s with blk := s.blk.writeControl a v } x = s.readControl x := by
  unfold Block.writeControl
  split
  case h_15 => rfl
  all_goals
    unfold State.readControl
    split <;> simp at h ⊢ <;> rfl

/-- A control register after it is written. The cases left are the registers of part of a byte: `CTRL`, `ARG_FLAGS`, `ARG_SEQ`
and `CRC_STATE`. -/
theorem readControl_writeControl_same (s : State) {a : HostAddr} (h : 0x203 ≤ a.toNat) (h' : a.toNat ≤ 0x210) (v : Byte) :
    State.readControl { s with blk := s.blk.writeControl a.toNat v } a.toNat =
      storeBits (rwMask a) v (s.readControl a.toNat) := by
  unfold rwMask
  generalize a.toNat = n at h h'
  interval_cases n <;> simp [State.readControl, Block.writeControl]
  · exact ctrlByte_written s.blk v
  · exact (storeBits_setWidth v s.blk.argFlags).symm
  · exact (storeBits_setWidth v s.blk.argSeq).symm
  · exact (storeBits_setWidth v s.blk.crcState).symm

/-- No control register holds a buffer byte, an operand of several bytes, `IV`, a `D_*` register or a slot. -/
theorem writeControl_frame (b : Block) (a : Nat) (v : Byte) :
    (∀ e x, (b.writeControl a v).bufByte e x = b.bufByte e x) ∧ (b.writeControl a v).argR = b.argR ∧
      (b.writeControl a v).argM = b.argM ∧ (b.writeControl a v).argId = b.argId ∧ (b.writeControl a v).iv = b.iv ∧
      (b.writeControl a v).dec = b.dec ∧ (b.writeControl a v).slots = b.slots := by
  unfold Block.writeControl
  split <;> exact ⟨fun _ _ => rfl, rfl, rfl, rfl, rfl, rfl, rfl⟩

/-! What a read depends on -/

/-- A read sees its own region of the address map only (20_memory R82). -/
theorem readLocation_congr (e : Env) {s t : State} {x : Nat}
    (buffer : x < 0x200 → t.blk.bufByte e x = s.blk.bufByte e x := by intros; rfl)
    (control : 0x200 ≤ x → x < 0x212 → t.readControl x = s.readControl x := by intros; rfl)
    (argR : 0x212 ≤ x → x < 0x215 → t.blk.argR = s.blk.argR := by intros; rfl)
    (argM : 0x215 ≤ x → x < 0x218 → t.blk.argM = s.blk.argM := by intros; rfl)
    (argId : 0x218 ≤ x → x < 0x227 → t.blk.argId = s.blk.argId := by intros; rfl)
    (iv : t.blk.iv = s.blk.iv := by rfl) (dec : t.blk.dec = s.blk.dec := by rfl)
    (assocSel : x = 0x250 → t.assocSel = s.assocSel := by intros; rfl)
    (window : 0x251 ≤ x → x < 0x280 → t.readWindow x = s.readWindow x := by intros; rfl) :
    t.readLocation e x = s.readLocation e x := by
  unfold State.readLocation
  rw [iv, dec]
  refine ite_congr rfl buffer fun hbuffer => ite_congr rfl (control (not_lt.1 hbuffer)) fun hcontrol => ?_
  refine ite_congr rfl (fun h => by rw [argR (not_lt.1 hcontrol) h]) fun hR => ?_
  refine ite_congr rfl (fun h => by rw [argM (not_lt.1 hR) h]) fun hM => ?_
  refine ite_congr rfl (fun h => by rw [argId (not_lt.1 hM) h]) fun _ => ?_
  refine ite_congr rfl (fun _ => rfl) fun _ => ite_congr rfl (fun _ => rfl) fun _ => ite_congr rfl (fun _ => rfl) fun _ => ?_
  refine ite_congr rfl (fun _ => rfl) fun hdec => ite_congr rfl assocSel fun hsel => ?_
  exact ite_congr rfl (window (by omega)) fun _ => rfl

/-- What is read after a write of a control register. -/
theorem readLocation_writeLocation_control (e : Env) (s : State) {a : HostAddr} (h : 0x203 ≤ a.toNat) (h' : a.toNat ≤ 0x210)
    (v : Byte) (x : Nat) : (s.writeLocation a.toNat v).readLocation e x =
      if x = a.toNat then storeBits (rwMask a) v (s.readLocation e a.toNat) else s.readLocation e x := by
  have hw : s.writeLocation a.toNat v = { s with blk := s.blk.writeControl a.toNat v } := by
    simp (disch := omega) only [State.writeLocation, bufEnd, if_pos, if_neg]
  rw [hw]
  split_ifs with hx
  · rw [hx, readLocation_control e _ (by omega) (by omega), readControl_writeControl_same s h h',
      readLocation_control e s (by omega) (by omega)]
  · obtain ⟨hbuffer, hR, hM, hId, hiv, hdec, hslots⟩ := writeControl_frame s.blk a.toNat v
    exact readLocation_congr e (buffer := fun _ => hbuffer e x) (control := fun _ _ => readControl_writeControl_ne s hx v)
      (argR := fun _ _ => hR) (argM := fun _ _ => hM) (argId := fun _ _ => hId) (iv := hiv) (dec := hdec)
      (window := fun _ _ => by simp only [State.readWindow, Block.slot, hslots])

/-! The registers of several bytes -/

/-- Reading after one byte of a register is written, by `f` before and by `g` after: the register `r` has its `n` bytes at
`base`, and elsewhere nothing changed. -/
theorem read_setByte {w base n : Nat} {f g : Nat → Byte} (r : BitVec w) (hw : 8 * n ≤ w) {a : Nat} (h : base ≤ a)
    (h' : a < base + n) (v : Byte)
    (hf : ∀ x, base ≤ x → x < base + n → f x = getByte r (x - base))
    (hg : ∀ x, base ≤ x → x < base + n → g x = getByte (setByte r (a - base) v) (x - base))
    (hout : ∀ x, x < base ∨ base + n ≤ x → g x = f x) (x : Nat) : g x = if x = a then v else f x := by
  by_cases hx : base ≤ x ∧ x < base + n
  · have hax : x - base = a - base ↔ x = a := by omega
    rw [hg x hx.1 hx.2, hf x hx.1 hx.2, getByte_setByte _ _ _ _ (by omega) (by omega)]
    simp only [hax]
  · rw [if_neg (by omega), hout x (by omega)]

section
variable (e : Env) (s : State) {a : Nat} (v : Byte) (x : Nat)

theorem readLocation_writeLocation_buffer (h : a < 0x200) :
    (s.writeLocation a v).readLocation e x = if x = a then v else s.readLocation e x := by
  have hw : s.writeLocation a v = { s with blk := { s.blk with mem := s.blk.mem.set a v } } := if_pos h
  rw [hw]
  by_cases hx : x < 0x200
  · rw [readLocation_buffer e _ hx, readLocation_buffer e s hx, Block.bufByte, Memory.get_set]
    split_ifs <;> rfl
  · rw [if_neg (by omega)]
    exact readLocation_congr e (buffer := by omega)

/-- A write of a byte of `ARG_R`, `ARG_M` or `ARG_ID`. -/
theorem readLocation_writeLocation_operand (h : 0x212 ≤ a) (h' : a < 0x227) :
    (s.writeLocation a v).readLocation e x = if x = a then v else s.readLocation e x := by
  obtain hR | ⟨hM, hM'⟩ | hId : a < 0x215 ∨ (0x215 ≤ a ∧ a < 0x218) ∨ 0x218 ≤ a := by omega
  · have hw : s.writeLocation a v = { s with blk := { s.blk with argR := setByte s.blk.argR (a - 0x212) v } } := by
      simp (disch := omega) only [State.writeLocation, bufEnd, if_pos, if_neg]
    rw [hw]
    refine read_setByte (base := 0x212) (n := 3) s.blk.argR (by decide) h hR v
      (fun x => readLocation_argR e s) (fun x => ?_) (fun x hx => readLocation_congr e (argR := by omega)) x
    exact readLocation_argR e _
  · have hw : s.writeLocation a v = { s with blk := { s.blk with argM := setByte s.blk.argM (a - 0x215) v } } := by
      simp (disch := omega) only [State.writeLocation, bufEnd, if_pos, if_neg]
    rw [hw]
    refine read_setByte (base := 0x215) (n := 3) s.blk.argM (by decide) hM hM' v
      (fun x => readLocation_argM e s) (fun x => ?_) (fun x hx => readLocation_congr e (argM := by omega)) x
    exact readLocation_argM e _
  · have hw : s.writeLocation a v = { s with blk := { s.blk with argId := setByte s.blk.argId (a - 0x218) v } } := by
      simp (disch := omega) only [State.writeLocation, bufEnd, if_pos, if_neg]
    rw [hw]
    refine read_setByte (base := 0x218) (n := 15) s.blk.argId (by decide) hId h' v
      (fun x => readLocation_argId e s) (fun x => ?_) (fun x hx => readLocation_congr e (argId := by omega)) x
    exact readLocation_argId e _

/-- A write of `ASSOC_SEL`, read outside the slot window, which it moves (10_state R57). -/
theorem readLocation_writeLocation_assocSel (hx : x < 0x251 ∨ 0x27F < x) :
    (s.writeLocation 0x250 v).readLocation e x = if x = 0x250 then v else s.readLocation e x := by
  change State.readLocation e { s with assocSel := v } x = _
  by_cases h : x = 0x250
  · subst h; rfl
  · rw [if_neg h]
    exact readLocation_congr e (assocSel := by omega) (window := by omega)

end

/-! The slot window -/

/-- The role is bit 0 of `A_CFG`, the only bit of it a write stores (10_state R52, R57). -/
theorem cfgByte_writeRole (sl : Slot) (v : Byte) :
    Slot.cfgByte { sl with role := if v.getLsbD 0 then .source else .sink } = storeBits 0x01 v sl.cfgByte := by
  have hrole : ((if v.getLsbD 0 then Role.source else .sink) == .source) = v.getLsbD 0 := by
    cases v.getLsbD 0 <;> rfl
  rw [Slot.cfgByte, hrole]
  exact (storeBits_append_bit v _ _).symm

/-- The window of a slot shows its node ID at 0x252 to 0x259 only. -/
theorem windowByte_withNodeId (sl : Slot) (id : BitVec 64) {x : Nat} (hx : x = 0x251 ∨ 0x25A ≤ x) :
    Slot.windowByte { sl with nodeId := id } x = sl.windowByte x := by
  obtain rfl | hx := hx
  · rfl
  · simp (disch := omega) only [Slot.windowByte, if_neg]

section
variable (e : Env) {s : State} (hs : s.assocSel.toNat < Config.pAssoc)
include hs

/-- A write inside the slot window, `ASSOC_SEL` naming a slot. -/
theorem writeLocation_selected {a : Nat} (h : 0x251 ≤ a) (h' : a < 0x280) (v : Byte) : s.writeLocation a v =
    { s with blk := s.blk.setSlot s.assocSel.toNat ((s.blk.slot s.assocSel.toNat).writeWindow a v) } := by
  rw [writeLocation_window s h h', State.writeWindow, if_pos hs]

/-- What is read after the selected slot is replaced. -/
theorem readLocation_setSlot (sl : Slot) (x : Nat) :
    State.readLocation e { s with blk := s.blk.setSlot s.assocSel.toNat sl } x =
      if 0x251 ≤ x ∧ x < 0x280 then sl.windowByte x else s.readLocation e x := by
  split_ifs with hx
  · rw [readLocation_window e (by exact hs) hx.1 hx.2, slot_setSlot_same _ hs]
  · exact readLocation_congr e (window := by omega)

/-- A write of `A_CFG`, which stores the role. -/
theorem readLocation_writeLocation_cfg (v : Byte) (x : Nat) : (s.writeLocation 0x251 v).readLocation e x =
    if x = 0x251 then storeBits 0x01 v (s.readLocation e 0x251) else s.readLocation e x := by
  rw [writeLocation_selected hs (by decide) (by decide), readLocation_setSlot e hs,
    readLocation_window e hs (a := 0x251) (by decide) (by decide)]
  split_ifs with hw hx hx
  · rw [hx]
    exact cfgByte_writeRole _ v
  · rw [readLocation_window e hs hw.1 hw.2, Slot.windowByte, Slot.windowByte, if_neg hx, if_neg hx]
    rfl
  · omega
  · rfl

/-- A write of a byte of `A_NODEID`. -/
theorem readLocation_writeLocation_nodeId {a : Nat} (h : 0x252 ≤ a) (h' : a < 0x25A) (v : Byte) (x : Nat) :
    (s.writeLocation a v).readLocation e x = if x = a then v else s.readLocation e x := by
  have hsl (sl : Slot) : sl.writeWindow a v = { sl with nodeId := setByte sl.nodeId (a - 0x252) v } := by
    simp (disch := omega) only [Slot.writeWindow, if_pos, if_neg]
  rw [writeLocation_selected hs (by omega) (by omega), hsl]
  refine read_setByte (base := 0x252) (n := 8) (s.blk.slot s.assocSel.toNat).nodeId (by decide) h h' v
    (fun x hx hx' => ?_) (fun x hx hx' => ?_) (fun x hx => ?_) x
  · rw [readLocation_window e hs (by omega) (by omega), windowByte_nodeId _ hx hx']
  · rw [readLocation_setSlot e hs, if_pos (by omega), windowByte_nodeId _ hx hx']
  · rw [readLocation_setSlot e hs]
    split_ifs with hw
    · rw [readLocation_window e hs hw.1 hw.2, windowByte_withNodeId _ _ (by omega)]
    · rfl

end

/-! Every read/write location -/

/-- The read/write locations of R82. -/
theorem regions_of_rwMask_ne_zero {a : HostAddr} (h : rwMask a ≠ 0x00) :
    a.toNat < 0x200 ∨ (0x203 ≤ a.toNat ∧ a.toNat ≤ 0x210) ∨ (0x212 ≤ a.toNat ∧ a.toNat < 0x227) ∨ a.toNat = 0x250 ∨
      a.toNat = 0x251 ∨ (0x252 ≤ a.toNat ∧ a.toNat < 0x25A) := by
  by_contra hn
  refine h ?_
  simp (disch := omega) only [rwMask, if_neg]

/-- Of the buffers, the operands of several bytes, `ASSOC_SEL` and `A_NODEID` every bit is stored. -/
theorem storeBits_rwMask_full {a : HostAddr} (h : a.toNat < 0x200 ∨ (0x212 ≤ a.toNat ∧ a.toNat < 0x227) ∨
    a.toNat = 0x250 ∨ (0x252 ≤ a.toNat ∧ a.toNat < 0x25A)) (v old : Byte) : storeBits (rwMask a) v old = v := by
  have hmask : rwMask a = 255#8 := by
    obtain h | h | h | h := h <;> simp (disch := omega) only [rwMask, if_pos, if_neg] <;> rfl
  rw [hmask, storeBits_full]

/-- What is read at `x` after `v` is written at `a`: the bits of `rwMask` at `a`, and what was read before elsewhere. -/
theorem readLocation_writeLocation (e : Env) {s : State} {a : HostAddr} (ha : rwMask a ≠ 0x00)
    (hs : a.toNat < 0x251 ∨ s.assocSel.toNat < Config.pAssoc) (v : Byte) {x : Nat}
    (hx : a.toNat = 0x250 → x < 0x251 ∨ 0x27F < x) : (s.writeLocation a.toNat v).readLocation e x =
      if x = a.toNat then storeBits (rwMask a) v (s.readLocation e a.toNat) else s.readLocation e x := by
  obtain h | ⟨h, h'⟩ | ⟨h, h'⟩ | h | h | ⟨h, h'⟩ := regions_of_rwMask_ne_zero ha
  · rw [storeBits_rwMask_full (by omega), readLocation_writeLocation_buffer e s v x h]
  · exact readLocation_writeLocation_control e s h h' v x
  · rw [storeBits_rwMask_full (by omega), readLocation_writeLocation_operand e s v x h h']
  · rw [storeBits_rwMask_full (by omega), h, readLocation_writeLocation_assocSel e s v x (hx h)]
  · have hmask : rwMask a = 0x01 := by rw [rwMask, h]; rfl
    rw [hmask, h, readLocation_writeLocation_cfg e (by omega)]
  · rw [storeBits_rwMask_full (by omega), readLocation_writeLocation_nodeId e (by omega) h h']

theorem writeWindow_phase (s : State) (a : Nat) (v : Byte) : (s.writeWindow a v).phase = s.phase := by
  unfold State.writeWindow
  split <;> rfl

/-- A write of a read/write location starts no command. -/
theorem writeLocation_phase (s : State) {a : HostAddr} (ha : rwMask a ≠ 0x00) (v : Byte) :
    (s.writeLocation a.toNat v).phase = s.phase := by
  have hcmd : a.toNat ≠ 0x200 := by have := regions_of_rwMask_ne_zero ha; omega
  simp only [State.writeLocation, apply_ite State.phase, if_neg hcmd, State.clearStatus_phase, writeWindow_phase, ite_self]

/-- Settles O13: a location stores the bits of its mask, and no other location is written. -/
theorem writtenLocationReadsBack : Obligations.WrittenLocationReadsBack := by
  intro e s a v h ha hs
  have hread (x : HostAddr) (hx : a = 0x250 → x.toNat < 0x251 ∨ 0x27F < x.toNat) : (s.hostWrite a v).hostRead e x =
      if x.toNat = a.toNat then storeBits (rwMask a) v (s.hostRead e a) else s.hostRead e x := by
    have hphase : (s.writeLocation a.toNat v).phase = .idle := by rw [writeLocation_phase s ha, h]
    rw [hostWrite_idle h, hostRead_idle e hphase, hostRead_idle e h, hostRead_idle e h]
    exact readLocation_writeLocation e ha hs v fun hsel => hx (BitVec.eq_of_toNat_eq hsel)
  have hsame : (s.hostWrite a v).hostRead e a = storeBits (rwMask a) v (s.hostRead e a) := by
    rw [hread a (by rintro rfl; decide), if_pos rfl]
  refine ⟨?_, ?_, fun x hne hx => ?_⟩
  · rw [hsame, storeBits_and_mask]
  · rw [hsame, storeBits_and_not_mask]
  · rw [hread x hx, if_neg fun hx' => hne (BitVec.eq_of_toNat_eq hx')]

end Sys2Proof.Machine
end

section
/-! SUPPORT. The decoder and the encoder agree (30_encoding R120 to R124; O1, O2), and the values of the result codes (R127;
O16). -/

namespace Sys2Proof

/-! The rows of the opcode map -/

/-- Each row of R121 has the mask of R122 and the byte that `FAM` and `FN` give its command (R120). -/
theorem opcodeRows_spec : ∀ r ∈ opcodeRows, r.mask = 0xFF ∧ r.pattern = encodeByte r.instr := by decide

/-- Under the mask 0xFF a row matches its own byte and no other (R122). -/
theorem OpcodeRow.matchesByte_iff {r : OpcodeRow} (h : r.mask = 0xFF) (b : Byte) : r.matchesByte b = true ↔ b = r.pattern := by
  have hb : b &&& 0xFF = b := BitVec.and_allOnes
  rw [OpcodeRow.matchesByte, h, hb, beq_iff_eq]

theorem decodeByte_encodeByte (i : Instr) : decodeByte (encodeByte i) = .ok i := by cases i <;> rfl

theorem eq_encodeByte_of_decodeByte {b : Byte} {i : Instr} (h : decodeByte b = .ok i) : b = encodeByte i := by
  unfold decodeByte at h
  split at h
  next r hr =>
    obtain ⟨hmask, hpattern⟩ := opcodeRows_spec r (List.mem_of_find?_eq_some hr)
    have hmatch : r.matchesByte b = true := List.find?_some (p := (OpcodeRow.matchesByte · b)) hr
    rw [(OpcodeRow.matchesByte_iff hmask b).1 hmatch, hpattern, Except.ok.inj h]
  next => cases h

theorem decodeByte_eq_ok_iff (b : Byte) (i : Instr) : decodeByte b = .ok i ↔ b = encodeByte i :=
  ⟨eq_encodeByte_of_decodeByte, fun h => h ▸ decodeByte_encodeByte i⟩

/-- Settles O1: a row that matches a byte holds its command's own byte, and each command's byte decodes to it. -/
theorem opcodeByteSelectsItsRow : Obligations.OpcodeByteSelectsItsRow :=
  ⟨decodeByte_eq_ok_iff, fun r hr => (opcodeRows_spec r hr).1, by decide⟩

/-! Table words and byte sequences -/

theorem decodeTableWord_of_tableByte {nbits w : Nat} {i : Instr} (h : tableByte nbits w = encodeByte i) :
    decodeTableWord nbits w = some i := by
  rw [decodeTableWord, h, decodeByte_encodeByte]

/-- A command and what follows it are told apart: every command is one byte (R120). -/
theorem decode_encode_append (i : Instr) (rest : List Byte) : decode (encode i ++ rest) = .ok (i, rest) := by
  show (decodeByte (encodeByte i)).map _ = _
  rw [decodeByte_encodeByte]
  rfl

/-- Settles O2: the table's words are the bytes of their commands, and 0x42 is no command's. -/
theorem opcodeMapWordsDecode : Obligations.OpcodeMapWordsDecode :=
  ⟨decodeTableWord_of_tableByte rfl, decodeTableWord_of_tableByte rfl, decodeTableWord_of_tableByte rfl,
    decodeTableWord_of_tableByte rfl, decodeTableWord_of_tableByte rfl, decodeTableWord_of_tableByte rfl,
    decode_encode_append .assocOpen [0x7E], rfl, rfl⟩

end Sys2Proof

namespace Sys2Proof.Machine

/-! Result codes -/

theorem toByte_le (c : ResultCode) : c.toByte ≤ 0x0B := by cases c <;> decide

/-- Settles O16: the values are those `toByte` lists, and `RESULT` reads through them, busy or idle. -/
theorem resultCodeValues : Obligations.ResultCodeValues := by
  refine ⟨rfl, toByte_le, fun e s => ?_⟩
  obtain ⟨_, _, hresult⟩ := hostRead_always e s
  exact hresult

end Sys2Proof.Machine
end

section
/-! SUPPORT. The frame of a command (30_encoding R121, the column 'writes'; O9): its registers and the slot file, step by step
along its rule, then the bytes of the buffers. -/

namespace Sys2Proof.Machine

/-! The frame of a change of the block -/

/-- The commands whose column lists the slot of `ARG_SLOT`. -/
def slotCommands : List Instr := [.assocOpen, .assocRekey, .txNext, .rxCommit, .rxRatchet, .secEncode, .secDecode]

/-- The commands whose column lists bytes of a buffer. -/
def bufferCommands : List Instr := [.hdrEncode, .crcAppend, .secEncode, .secDecode]

/-- The block `b` with what the column of command `i` lists, and the model's own `stg` and `draws`, taken from `b'`. -/
def Block.writtenBy (i : Instr) (b b' : Block) : Block :=
  { b with
    crcState := if i = .crcInit ∨ i = .crcUpdate then b'.crcState else b.crcState
    crcOut := if i = .crcFinal then b'.crcOut else b.crcOut
    argR := if i = .txNext then b'.argR else b.argR
    argM := if i = .txNext then b'.argM else b.argM
    iv := if i = .nonceBuild then b'.iv else b.iv
    dec := if i = .decode ∨ i = .secDecode then b'.dec else b.dec
    fbLen := if i = .hdrEncode ∨ i = .crcAppend ∨ i = .secEncode then b'.fbLen else b.fbLen
    pbLen := if i = .secDecode then b'.pbLen else b.pbLen
    mem := if i ∈ bufferCommands then b'.mem else b.mem
    slots := if i ∈ slotCommands then b'.slots else b.slots
    stg := b'.stg
    draws := b'.draws }

/-- The slots have one key, node ID and role. -/
def Slot.SameIdentity (sl sl' : Slot) : Prop := sl'.key = sl.key ∧ sl'.nodeId = sl.nodeId ∧ sl'.role = sl.role

theorem Slot.SameIdentity.refl (sl : Slot) : sl.SameIdentity sl := ⟨rfl, rfl, rfl⟩

theorem Slot.SameIdentity.trans {sl sl' sl'' : Slot} (h : sl.SameIdentity sl') (h' : sl'.SameIdentity sl'') :
    sl.SameIdentity sl'' := by
  obtain ⟨hkey, hid, hrole⟩ := h
  obtain ⟨hkey', hid', hrole'⟩ := h'
  exact ⟨hkey'.trans hkey, hid'.trans hid, hrole'.trans hrole⟩

/-- From `b` to `b'` only what command `i` may write has changed: its column, and in the slot file the counters of the slot
`ARG_SLOT` names. -/
structure Block.Frame (i : Instr) (b b' : Block) : Prop where
  column : b' = b.writtenBy i b'
  identity : ∀ k, (b.slot k).SameIdentity (b'.slot k)
  others : ∀ k, k ≠ b.argSlot.toNat → b'.slot k = b.slot k

theorem ite_else_ite {α : Type} (p : Prop) [Decidable p] (x y z : α) :
    (if p then x else if p then y else z) = if p then x else z := by
  split_ifs <;> rfl

theorem Block.writtenBy_trans (i : Instr) (b b' b'' : Block) : (b.writtenBy i b').writtenBy i b'' = b.writtenBy i b'' := by
  simp only [Block.writtenBy, ite_else_ite]

/-- Replacing slot `k` changes at most that slot, and nothing if the file has none of that number. -/
theorem slot_setSlot_cases (b : Block) (k : Nat) (sl : Slot) (j : Nat) :
    (b.setSlot k sl).slot j = b.slot j ∨ j = k ∧ (b.setSlot k sl).slot j = sl := by
  by_cases hk : k < Config.pAssoc
  · by_cases hj : j = k
    · exact .inr ⟨hj, by rw [slot_setSlot b hk, if_pos hj]⟩
    · exact .inl (slot_setSlot_ne b hk hj sl)
  · left
    rw [Block.slot, Block.setSlot_slots, Vector.setIfInBounds_eq_of_size_le (by omega), ← Block.slot]

section
variable {i : Instr} {b b' b'' : Block}

/-- A change of the block that leaves the slot file. -/
theorem Block.Frame.of_slots (hc : b' = b.writtenBy i b') (hs : b'.slots = b.slots) : b.Frame i b' := by
  have hslot (k : Nat) : b'.slot k = b.slot k := by rw [Block.slot, hs, ← Block.slot]
  exact ⟨hc, fun k => hslot k ▸ .refl _, fun k _ => hslot k⟩

theorem Block.Frame.refl : b.Frame i b := .of_slots (by simp [Block.writtenBy]) rfl

/-- A field of the block, as the column gives it. -/
theorem Block.Frame.field {α : Type} (h : b.Frame i b') (g : Block → α) : g b' = g (b.writtenBy i b') :=
  congrArg g h.column

theorem Block.Frame.argSlot (h : b.Frame i b') : b'.argSlot = b.argSlot := h.field Block.argSlot

theorem Block.Frame.boots (h : b.Frame i b') : b'.boots = b.boots := h.field Block.boots

theorem Block.Frame.mem (h : b.Frame i b') (hi : i ∉ bufferCommands) : b'.mem = b.mem :=
  (h.field Block.mem).trans (if_neg hi)

theorem Block.Frame.slots (h : b.Frame i b') (hi : i ∉ slotCommands) : b'.slots = b.slots :=
  (h.field Block.slots).trans (if_neg hi)

/-- A buffer byte of an address whose memory cell is as it was. -/
theorem Block.Frame.bufByte (h : b.Frame i b') (e : Env) {a : Nat} (ha : b'.mem.get a = b.mem.get a) :
    b'.bufByte e a = b.bufByte e a := by
  rw [Block.bufByte, ha, h.boots, ← Block.bufByte]

theorem Block.Frame.trans (h : b.Frame i b') (h' : b'.Frame i b'') : b.Frame i b'' where
  column := by
    calc b'' = b'.writtenBy i b'' := h'.column
      _ = (b.writtenBy i b').writtenBy i b'' := by rw [← h.column]
      _ = b.writtenBy i b'' := Block.writtenBy_trans i b b' b''
  identity k := (h.identity k).trans (h'.identity k)
  others k hk := (h'.others k (h.argSlot ▸ hk)).trans (h.others k hk)

/-- No column lists the staging buffer or the count of draws, which are the model's own (assumption logs 7, 8). -/
theorem Block.Frame.stg_draws (h : b.Frame i b') (g : Staging) (d : Nat) : b.Frame i { b' with stg := g, draws := d } where
  column := congrArg (fun x : Block => { x with stg := g, draws := d }) h.column
  identity := h.identity
  others := h.others

/-- A slot command writes the counters of the slot of `ARG_SLOT`. -/
theorem Block.Frame.setSlot (hi : i ∈ slotCommands) {k : Nat} {sl : Slot} (h : b.Frame i b') (hk : k = b.argSlot.toNat)
    (hsl : (b'.slot k).SameIdentity sl) : b.Frame i (b'.setSlot k sl) := by
  refine h.trans ⟨?_, fun j => ?_, fun j hj => ?_⟩
  · simp [Block.writtenBy, hi, Block.setSlot]
  · obtain he | ⟨rfl, he⟩ := slot_setSlot_cases b' k sl j
    · rw [he]; exact .refl _
    · rw [he]; exact hsl
  · obtain he | ⟨rfl, _⟩ := slot_setSlot_cases b' k sl j
    · exact he
    · exact absurd (h.argSlot ▸ hk) hj

/-- The same after a seed, which changes nothing but the count of draws. -/
theorem Block.Frame.takeSeed_setSlot (e : Env) (hi : i ∈ slotCommands) {k : Nat} {sl : Slot} (h : b.Frame i b')
    (hk : k = b.argSlot.toNat) (hsl : (b'.slot k).SameIdentity sl) : b.Frame i ((takeSeed e b').2.setSlot k sl) := by
  obtain ⟨_, he⟩ | ⟨_, he⟩ := takeSeed_cases e b'
  · rw [he]; exact h.setSlot hi hk hsl
  · rw [he]; exact (h.stg_draws b'.stg (b'.draws + 1)).setSlot hi hk hsl

end

/-! The frame of a step -/

/-- A request that, if it writes a record, writes the whole record `k`. -/
def Request.OfSlot (k : Nat) : Request → Prop
  | .nvWrite j rec => j = k ∧ rec.length = Config.nvRecBytes
  | _ => True

/-- What a step of command `i` may do, taken on `b`: change the block within the frame, and issue a request only if `i` is a
slot command. -/
def Turn.Frame (i : Instr) (b : Block) : Turn → Prop
  | .finish _ b' => b.Frame i b'
  | .go b' => b.Frame i b'
  | .ask q b' => b.Frame i b' ∧ i ∈ slotCommands ∧ q.OfSlot b.argSlot.toNat

section
variable {i : Instr} {b b' : Block}

theorem withSlot_frame {f : Nat → Block → Turn} (h : (f b.argSlot.toNat b).Frame i b) : (withSlot f b).Frame i b := by
  obtain ⟨_, he⟩ | ⟨_, he⟩ := withSlot_cases f b
  · rw [he]; exact Block.Frame.refl
  · rw [he]; exact h

theorem withOpenSlot_frame {f : Nat → Block → Turn} (h : (f b.argSlot.toNat b).Frame i b) :
    (withOpenSlot f b).Frame i b := by
  obtain ⟨_, he⟩ | ⟨_, _, he⟩ | ⟨_, _, he⟩ := withOpenSlot_cases f b
  · rw [he]; exact Block.Frame.refl
  · rw [he]; exact Block.Frame.refl
  · rw [he]; exact h

/-- `advance` counts on the slot, and writes its record if the message counter rolls over (43_replayguard R240). -/
theorem askIf_advance_frame (e : Env) (hi : i ∈ slotCommands) {k : Nat} (h : b.Frame i b') (hk : k = b.argSlot.toNat) :
    (Turn.askIf (advance e k b').2 (advance e k b').1).Frame i b := by
  obtain ⟨_, ha⟩ | ⟨_, _, ha⟩ | ⟨_, _, ha⟩ := advance_cases e k b'
  · rw [ha]; exact h.setSlot hi hk ⟨rfl, rfl, rfl⟩
  · rw [ha]; exact ⟨h.takeSeed_setSlot e hi hk ⟨rfl, rfl, rfl⟩, hi, hk, rfl⟩
  · rw [ha]; exact h.setSlot hi hk ⟨rfl, rfl, rfl⟩

theorem commitTurn_frame (hi : i ∈ slotCommands) {k : Nat} (r m : Ctr) (h : b.Frame i b') (hk : k = b.argSlot.toNat) :
    (commitTurn k r m b').Frame i b :=
  ⟨h.setSlot hi hk ⟨rfl, rfl, rfl⟩, hi, hk, rfl⟩

end

/-! The steps of the rules -/

theorem hdrEncodeStep_frame (b : Block) : (hdrEncodeStep b).Frame .hdrEncode b := by
  unfold hdrEncodeStep
  dsimp only
  split_ifs
  case neg => exact .of_slots rfl rfl
  all_goals exact Block.Frame.refl

theorem validateStep_frame (e : Env) (b : Block) : (validateStep e b).Frame .validate b := by
  unfold validateStep
  split_ifs <;> exact Block.Frame.refl

theorem decodeStep_frame (e : Env) (b : Block) : (decodeStep e b).Frame .decode b := by
  unfold decodeStep
  split_ifs
  · exact .of_slots rfl rfl
  · exact Block.Frame.refl

theorem crcAppendStep_frame (e : Env) (b : Block) : (crcAppendStep e b).Frame .crcAppend b := by
  unfold crcAppendStep
  split_ifs
  · exact Block.Frame.refl
  · exact .of_slots rfl rfl

theorem crcVerifyStep_frame (e : Env) (b : Block) : (crcVerifyStep e b).Frame .crcVerify b := by
  unfold crcVerifyStep
  split_ifs <;> exact Block.Frame.refl

theorem openRead_frame (b : Block) : (openRead b).Frame .assocOpen b :=
  withSlot_frame ⟨.refl, by decide, trivial⟩

theorem openLoad_frame (e : Env) (b : Block) : (openLoad e b).Frame .assocOpen b := by
  have hi : Instr.assocOpen ∈ slotCommands := by decide
  unfold openLoad
  dsimp only
  split_ifs
  · exact Block.Frame.refl.setSlot hi rfl ⟨rfl, rfl, rfl⟩
  · exact ⟨Block.Frame.refl.takeSeed_setSlot e hi rfl ⟨rfl, rfl, rfl⟩, hi, rfl, rfl⟩

/-- The last step of ASSOC_OPEN and of ASSOC_REKEY. -/
theorem openDone_frame {i : Instr} (hi : i ∈ slotCommands) (b : Block) : (openDone b).Frame i b :=
  Block.Frame.refl.setSlot hi rfl ⟨rfl, rfl, rfl⟩

theorem rekeyStart_frame (e : Env) (b : Block) : (rekeyStart e b).Frame .assocRekey b :=
  withSlot_frame ⟨Block.Frame.refl.takeSeed_setSlot e (by decide) rfl ⟨rfl, rfl, rfl⟩, by decide, rfl, rfl⟩

theorem txNextStep_frame (e : Env) (b : Block) : (txNextStep e b).Frame .txNext b :=
  withOpenSlot_frame <| by
    split_ifs
    · exact Block.Frame.refl
    · exact askIf_advance_frame e (by decide) (.of_slots rfl rfl) rfl

theorem rxCheckStep_frame (b : Block) : (rxCheckStep b).Frame .rxCheck b :=
  withOpenSlot_frame <| by split_ifs <;> exact Block.Frame.refl

theorem rxCommitStep_frame (b : Block) : (rxCommitStep b).Frame .rxCommit b :=
  withOpenSlot_frame <| by
    split_ifs
    · exact commitTurn_frame (by decide) _ _ .refl rfl
    · exact Block.Frame.refl

theorem rxRatchetStep_frame (b : Block) : (rxRatchetStep b).Frame .rxRatchet b :=
  withOpenSlot_frame <| by
    split_ifs
    · exact commitTurn_frame (by decide) _ _ .refl rfl
    · exact Block.Frame.refl

theorem secEncodeStart_frame (e : Env) (b : Block) : (secEncodeStart e b).Frame .secEncode b :=
  withOpenSlot_frame <| by
    split_ifs
    · exact Block.Frame.refl
    · exact Block.Frame.refl
    · exact askIf_advance_frame e (by decide) (.of_slots rfl rfl) rfl

theorem secEncodeSeal_frame (b : Block) : (secEncodeSeal b).Frame .secEncode b := ⟨.refl, by decide, trivial⟩

theorem secEncodeFinish_frame (b : Block) : (secEncodeFinish b).Frame .secEncode b := by
  unfold secEncodeFinish
  dsimp only
  split_ifs <;> exact .of_slots rfl rfl

theorem secDecodeStart_frame (e : Env) (b : Block) : (secDecodeStart e b).Frame .secDecode b :=
  withOpenSlot_frame <| by
    dsimp only
    split_ifs
    case neg => exact ⟨.of_slots rfl rfl, by decide, trivial⟩
    all_goals exact Block.Frame.refl

theorem secDecodeCommit_frame (e : Env) (b : Block) : (secDecodeCommit e b).Frame .secDecode b := by
  unfold secDecodeCommit
  split_ifs
  · exact Block.Frame.refl
  · split
    · exact Block.Frame.refl
    · exact commitTurn_frame (by decide) _ _ (.of_slots rfl rfl) rfl

theorem secDecodeFinish_frame (e : Env) (b : Block) : (secDecodeFinish e b).Frame .secDecode b := .of_slots rfl rfl

/-- Every step of a command stays within the command's frame. -/
theorem ruleOf_step_frame (e : Env) (i : Instr) : (ruleOf e i).Forall fun f => ∀ b : Block, (f b).Frame i b := by
  cases i
  case nop => exact fun _ => Block.Frame.refl
  case crcInit | crcUpdate | crcFinal | nonceBuild => exact fun _ => Block.Frame.of_slots rfl rfl
  case hdrEncode => exact hdrEncodeStep_frame
  case validate => exact validateStep_frame e
  case decode => exact decodeStep_frame e
  case crcAppend => exact crcAppendStep_frame e
  case crcVerify => exact crcVerifyStep_frame e
  case assocOpen => exact ⟨openRead_frame, openLoad_frame e, openDone_frame (by decide)⟩
  case assocRekey => exact ⟨rekeyStart_frame e, openDone_frame (by decide)⟩
  case txNext => exact txNextStep_frame e
  case rxCheck => exact rxCheckStep_frame
  case rxCommit => exact rxCommitStep_frame
  case rxRatchet => exact rxRatchetStep_frame
  case secEncode => exact ⟨secEncodeStart_frame e, secEncodeSeal_frame, secEncodeFinish_frame⟩
  case secDecode => exact ⟨secDecodeStart_frame e, secDecodeCommit_frame e, secDecodeFinish_frame e⟩

/-! The frame of a command -/

/-- From `s` to `t` only what command `i` may write has changed, of the block and of the NV records. -/
structure State.Frame (e : Env) (i : Instr) (s t : State) : Prop where
  blk : s.blk.Frame i t.blk
  records : ∀ k, k ≠ s.blk.argSlot.toNat → nvRecord e t.nv k = nvRecord e s.nv k
  quiet : i ∉ slotCommands → t.nv = s.nv ∧ t.requests = s.requests

section
variable {e : Env} {i : Instr} {s t u : State}

/-- A change of the block alone. -/
theorem State.Frame.of_blk (h : s.blk.Frame i t.blk) (hnv : t.nv = s.nv) (hreq : t.requests = s.requests) :
    s.Frame e i t :=
  ⟨h, fun k _ => by rw [hnv], fun _ => ⟨hnv, hreq⟩⟩

theorem State.Frame.trans (h : s.Frame e i t) (h' : t.Frame e i u) : s.Frame e i u where
  blk := h.blk.trans h'.blk
  records k hk := (h'.records k (h.blk.argSlot ▸ hk)).trans (h.records k hk)
  quiet hi := by
    obtain ⟨hnv, hreq⟩ := h.quiet hi
    obtain ⟨hnv', hreq'⟩ := h'.quiet hi
    exact ⟨hnv'.trans hnv, hreq'.trans hreq⟩

theorem complete_frame (c : ResultCode) {b : Block} (h : s.blk.Frame i b) : s.Frame e i (s.complete c b) :=
  .of_blk (h.stg_draws Staging.empty b.draws) rfl rfl

/-- A request of the slot, answered at once. -/
theorem answer_frame (e : Env) {q : Request} {b : Block} (h : s.blk.Frame i b) (hi : i ∈ slotCommands)
    (hq : q.OfSlot s.blk.argSlot.toNat) : s.Frame e i (answer e (s.issue q b) q) := by
  obtain ⟨k, rec, rfl, ha⟩ | ⟨_, g, d, ha⟩ := answer_cases e (s.issue q b) q
  · obtain ⟨rfl, hrec⟩ := hq
    rw [ha]
    exact ⟨h, fun j hj => (nvRecord_nvStore e s.nv _ j rec hrec).trans (if_neg hj), fun hn => absurd hi hn⟩
  · rw [ha]
    exact ⟨h.stg_draws g d, fun _ _ => rfl, fun hn => absurd hi hn⟩

/-- A command whose steps stay within its frame stays within it. -/
theorem runSteps_frame {rule : Rule} (h : ∀ f ∈ rule, ∀ b : Block, (f b).Frame i b) : s.Frame e i (runSteps e rule s) := by
  induction rule generalizing s with
  | nil => exact complete_frame .ok .refl
  | cons f rest ih =>
    have hstep := h f (.head _) s.blk
    have hrest (t : State) : t.Frame e i (runSteps e rest t) := ih fun g hg => h g (.tail _ hg)
    cases hf : f s.blk with
    | finish c b => rw [hf] at hstep; rw [runSteps_finish e hf]; exact complete_frame c hstep
    | go b =>
      rw [hf] at hstep; rw [runSteps_go e hf]
      have hb : s.Frame e i { s with blk := b } := .of_blk hstep rfl rfl
      exact hb.trans (hrest _)
    | ask q b =>
      rw [hf] at hstep; rw [runSteps_ask e hf]
      obtain ⟨hb, hi, hq⟩ := hstep
      exact (answer_frame e hb hi hq).trans (hrest _)

end

theorem runSteps_ruleOf_frame (e : Env) (i : Instr) (s : State) : s.Frame e i (runSteps e (ruleOf e i) s) :=
  runSteps_frame (List.forall_iff_forall_mem.1 (ruleOf_step_frame e i))

/-! The bytes of the buffers -/

/-- The memories hold the same at every address of a region. -/
def AgreeOn (region : Nat → Prop) (m m' : Memory) : Prop := ∀ a, region a → m'.get a = m.get a

/-- The addresses of FB. -/
def InFb (a : Nat) : Prop := a < pbBase

/-- The addresses from PB on. -/
def FromPb (a : Nat) : Prop := pbBase ≤ a

section
variable {m m' : Memory} {l : List Byte}

theorem AgreeOn.refl {region : Nat → Prop} : AgreeOn region m m := fun _ _ => rfl

theorem AgreeOn.writeBytes {region : Nat → Prop} (h : AgreeOn region m m') {x : Nat}
    (hx : ∀ a, region a → ¬(x ≤ a ∧ a < x + l.length)) : AgreeOn region m (m'.writeBytes x l) := fun a ha => by
  rw [Memory.get_writeBytes, dif_neg (hx a ha), h a ha]

theorem AgreeOn.writeFb (h : AgreeOn FromPb m m') {x : Nat} (hl : x + l.length ≤ pbBase) :
    AgreeOn FromPb m (m'.writeBytes x l) :=
  h.writeBytes fun a ha => by unfold FromPb at ha; omega

theorem AgreeOn.writePb (h : AgreeOn InFb m m') : AgreeOn InFb m (m'.writeBytes pbBase l) :=
  h.writeBytes fun a ha => by unfold InFb at ha; omega

end

section
variable {m : Memory} {b : Block}

theorem hdrEncodeStep_fromPb (h : AgreeOn FromPb m b.mem) : AgreeOn FromPb m (hdrEncodeStep b).blk.mem := by
  unfold hdrEncodeStep
  dsimp only
  split_ifs with hn
  case neg =>
    refine h.writeFb ?_
    simp only [length_headerBytes, length_bytesOf, pbBase, Config.idLenEncMax] at hn ⊢
    omega
  all_goals exact h

theorem crcAppendStep_fromPb (e : Env) (h : AgreeOn FromPb m b.mem) : AgreeOn FromPb m (crcAppendStep e b).blk.mem := by
  unfold crcAppendStep
  split_ifs with hl
  · exact h
  · refine h.writeFb ?_
    simp only [List.length_singleton, pbBase]
    omega

/-- PB is as in `m`, and the frame of the body in `STG` has a length byte (44_secureframe R284). -/
def Block.BodyFitsBelowPb (m : Memory) (b : Block) : Prop :=
  AgreeOn FromPb m b.mem ∧ secureFl b.argIdLen.toNat b.stg.data.length ≤ Config.flMax

/-- The same of the ciphertext in `STG`, whose tag has 16 bytes, unless the engine failed. -/
def Block.SealedFitsBelowPb (m : Memory) (b : Block) : Prop :=
  AgreeOn FromPb m b.mem ∧
    (b.stg.failed = false → secureFl b.argIdLen.toNat b.stg.data.length ≤ Config.flMax ∧ b.stg.tag.length = Config.tagBytes)

theorem secEncodeStart_fromPb (e : Env) (h : AgreeOn FromPb m b.mem) :
    (secEncodeStart e b).Leaves e (AgreeOn FromPb m) (Block.BodyFitsBelowPb m) := by
  refine withOpenSlot_leaves h fun k => ?_
  split_ifs with hl
  · exact h
  · exact h
  · refine leaves_askIf_advance e _ k ?_
    obtain ⟨hm, hn, hs⟩ := advance_frame e k { b with stg := ⟨sendNonce e (b.slot k), b.paddedBody e, [], false⟩ }
    rw [Block.BodyFitsBelowPb, hm, hn, hs]
    exact ⟨h, secureFl_le_of_not_tooLong hl⟩

theorem secEncodeSeal_fromPb (e : Env) (h : b.BodyFitsBelowPb m) :
    (secEncodeSeal b).Leaves e (AgreeOn FromPb m) (Block.SealedFitsBelowPb m) := by
  obtain ⟨hm, hl⟩ := h
  rintro s rfl
  refine ⟨by rwa [answer_blk_mem], fun hf => ?_⟩
  obtain ⟨hd, ht⟩ := answer_gcmEnc_lengths e s _ _ _ _ hf
  rw [hd, ht, answer_blk_argIdLen]
  exact ⟨hl, rfl⟩

theorem secEncodeFinish_fromPb (h : b.SealedFitsBelowPb m) : AgreeOn FromPb m (secEncodeFinish b).blk.mem := by
  obtain ⟨hm, hfit⟩ := h
  unfold secEncodeFinish
  dsimp only
  split_ifs with hf
  · exact hm
  · obtain ⟨hl, ht⟩ := hfit (by simpa using hf)
    refine hm.writeFb ?_
    simp only [Block.secHeader, List.length_append, length_headerBytes, length_bytesOf, length_bytes24, List.length_singleton,
      ht, secureFl, Config.tlSecure, Config.flMax, Config.tagBytes, pbBase] at hl ⊢
    omega

theorem secDecodeStart_mem (e : Env) (b : Block) : (secDecodeStart e b).blk.mem = b.mem :=
  withOpenSlot_mem fun k => by dsimp only; split_ifs <;> rfl

theorem secDecodeCommit_mem (e : Env) (b : Block) : (secDecodeCommit e b).blk.mem = b.mem := by
  unfold secDecodeCommit
  split_ifs
  · rfl
  · split <;> rfl

theorem secDecodeFinish_inFb (e : Env) (h : AgreeOn InFb m b.mem) : AgreeOn InFb m (secDecodeFinish e b).blk.mem :=
  h.writePb

end

/-- Only SEC_DECODE writes PB. -/
theorem runSteps_ruleOf_fromPb (e : Env) {i : Instr} (hi : i ≠ .secDecode) (s : State) :
    AgreeOn FromPb s.blk.mem (runSteps e (ruleOf e i) s).blk.mem := by
  by_cases hb : i ∈ bufferCommands
  · obtain rfl | rfl | rfl : i = .hdrEncode ∨ i = .crcAppend ∨ i = .secEncode := by simpa [bufferCommands, hi] using hb
    · exact runSteps_mem_of_leaves (Turn.leaves_mem e (hdrEncodeStep_fromPb .refl)) fun _ ht => ht
    · exact runSteps_mem_of_leaves (Turn.leaves_mem e (crcAppendStep_fromPb e .refl)) fun _ ht => ht
    · refine runSteps_mem_of_leaves (secEncodeStart_fromPb e .refl) fun t ht => ?_
      refine runSteps_mem_of_leaves (secEncodeSeal_fromPb e ht) fun u hu => ?_
      exact runSteps_mem_of_leaves (Turn.leaves_mem e (secEncodeFinish_fromPb hu)) fun _ hv => hv
  · rw [(runSteps_ruleOf_frame e i s).blk.mem hb]
    exact .refl

/-- Only HDR_ENCODE, CRC_APPEND and SEC_ENCODE write FB. -/
theorem runSteps_ruleOf_inFb (e : Env) {i : Instr} (hi : i ∉ [.hdrEncode, .crcAppend, .secEncode]) (s : State) :
    AgreeOn InFb s.blk.mem (runSteps e (ruleOf e i) s).blk.mem := by
  by_cases hd : i = .secDecode
  · subst hd
    refine runSteps_mem_invariant e (Q := AgreeOn InFb s.blk.mem) (List.forall_iff_forall_mem.1 ?_) .refl
    exact ⟨fun b hb => (secDecodeStart_mem e b).symm ▸ hb, fun b hb => (secDecodeCommit_mem e b).symm ▸ hb,
      fun b => secDecodeFinish_inFb e⟩
  · have hb : i ∉ bufferCommands := by simpa [bufferCommands, hd] using hi
    rw [(runSteps_ruleOf_frame e i s).blk.mem hb]
    exact .refl

/-- Settles O9: every step of a command's rule keeps within the command's frame, and so does the rule; of the two buffers, a
command writes the one its column lists. -/
theorem commandsWriteOnlyTheirColumn : Obligations.CommandsWriteOnlyTheirColumn := by
  intro i s
  obtain ⟨hblk, hrecords, hquiet⟩ := runSteps_ruleOf_frame Config.env i s
  have hf {α : Type} := hblk.field (α := α)
  have hfb (h : i ∉ [.hdrEncode, .crcAppend, .secEncode]) (a : Nat) (ha : a < 0x100) :=
    hblk.bufByte Config.env (runSteps_ruleOf_inFb Config.env h s a ha)
  have hpb (h : i ≠ .secDecode) (a : Nat) (ha : 0x100 ≤ a) :=
    hblk.bufByte Config.env (runSteps_ruleOf_fromPb Config.env h s a ha)
  refine ⟨_, exec_eq_execWith i s, ?operands, ?crcState, ?crcOut, ?counters, ?iv, ?dec, ?fb, ?pb, hblk.identity,
    fun k hk => ⟨hblk.others k hk, hrecords k hk⟩, fun h => ⟨hblk.slots h, hquiet h⟩⟩
  case operands =>
    exact ⟨hf Block.ie, hf Block.pad31, hf Block.argType, hf Block.argFlags, hf Block.argSeq, hf Block.argIdLen,
      hf Block.argBl, hf Block.argSlot, hf Block.maxFl, hf Block.argData, hf Block.argId⟩
  case crcState => exact fun h h' => (hf Block.crcState).trans (if_neg (by simp [h, h']))
  case crcOut => exact fun h => (hf Block.crcOut).trans (if_neg h)
  case counters => exact fun h => ⟨(hf Block.argR).trans (if_neg h), (hf Block.argM).trans (if_neg h)⟩
  case iv => exact fun h => (hf Block.iv).trans (if_neg h)
  case dec => exact fun h h' => (hf Block.dec).trans (if_neg (by simp [h, h']))
  case fb =>
    exact fun h h' h'' => ⟨(hf Block.fbLen).trans (if_neg (by simp [h, h', h''])), hfb (by simp [h, h', h''])⟩
  case pb => exact fun h => ⟨(hf Block.pbLen).trans (if_neg h), hpb h⟩

end Sys2Proof.Machine
end

section
/-! SUPPORT. The CRC7 unit (40_crc7): the bit-serial update as an 8-bit shift register (O26), the final byte as a number, and the
three CRC commands (O23, O24, O25). -/

namespace Sys2Proof.Machine

/-! The update as a shift register -/

/-- One shift of R161's second form: left, with 0x6E added when bit 7 leaves. -/
def crc7Shift (x : Byte) : Byte := if x.getLsbD 7 then (x <<< 1) ^^^ 0x6E else x <<< 1

/-- The shift register that stands for the CRC state and the data bits still to come, the next one first. -/
def crc7Register (p : BitVec 7 × Byte) : Byte := (p.1.setWidth 8 <<< 1) ^^^ p.2

theorem crc7Register_zero (x : Byte) : crc7Register (0, x) = x := by simp [crc7Register]

/-- One bit of `crc7Update`: the next data bit goes into the state, and the rest moves up. -/
def crc7Serial (p : BitVec 7 × Byte) : BitVec 7 × Byte := (crc7Bit p.1 (p.2.getLsbD 7), p.2 <<< 1)

theorem crc7Serial_iterate_eight (c : BitVec 7) (d : Byte) : crc7Serial^[8] (c, d) = (crc7Update c d, 0) := by
  simp [crc7Serial, crc7Update, ← BitVec.shiftLeft_add]

/-- The register's bit 7 is the feedback bit. -/
theorem crc7Register_getLsbD_seven (c : BitVec 7) (x : Byte) :
    (crc7Register (c, x)).getLsbD 7 = (c.getLsbD 6 ^^ x.getLsbD 7) := by
  simp [crc7Register]

/-- Widening the state and then shifting by two loses the bit that the state's own shift loses. -/
theorem setWidth_shiftLeft_two (c : BitVec 7) : c.setWidth 8 <<< 1 <<< 1 = (c <<< 1).setWidth 8 <<< 1 := by
  apply BitVec.eq_of_toNat_eq
  simp only [BitVec.toNat_shiftLeft, BitVec.toNat_setWidth, Nat.shiftLeft_eq]
  omega

/-- The polynomial 0x37 in the register is 0x6E. -/
theorem crc7Register_serial (p : BitVec 7 × Byte) : crc7Register (crc7Serial p) = crc7Shift (crc7Register p) := by
  obtain ⟨c, x⟩ := p
  have hshift : crc7Register (c, x) <<< 1 = crc7Register (c <<< 1, x <<< 1) := by
    simp only [crc7Register, BitVec.shiftLeft_xor_distrib, setWidth_shiftLeft_two]
  have hpoly : crc7Register ((c <<< 1) ^^^ Config.crc7Poly, x <<< 1) = crc7Register (c <<< 1, x <<< 1) ^^^ 0x6E := by
    simp only [crc7Register, BitVec.setWidth_xor, BitVec.shiftLeft_xor_distrib, BitVec.xor_assoc, BitVec.xor_comm (x <<< 1)]
    rfl
  rw [crc7Shift, crc7Register_getLsbD_seven, hshift, ← hpoly, crc7Serial, crc7Bit, apply_ite (crc7Register ⟨·, x <<< 1⟩)]

/-- Eight shifts of the register leave the updated state in its upper seven bits (R161, second form). -/
theorem crc7Register_update (c : BitVec 7) (d : Byte) :
    (crc7Update c d).setWidth 8 <<< 1 = crc7Shift^[8] (crc7Register (c, d)) := by
  have h := Function.Semiconj.iterate_right crc7Register_serial 8 (c, d)
  simpa [crc7Serial_iterate_eight, crc7Register] using h

/-- A widened state fits the register: the shift up loses no bit. -/
theorem setWidth_shiftLeft_ushiftRight (c : BitVec 7) : (c.setWidth 8 <<< 1) >>> 1 = c.setWidth 8 := by
  have hc := c.isLt
  apply BitVec.eq_of_toNat_eq
  simp only [BitVec.toNat_ushiftRight, BitVec.toNat_shiftLeft, BitVec.toNat_setWidth, Nat.shiftLeft_eq,
    Nat.shiftRight_eq_div_pow]
  omega

theorem crc7Update_setWidth (c : BitVec 7) (d : Byte) :
    (crc7Update c d).setWidth 8 = crc7Shift^[8] (crc7Register (c, d)) >>> 1 := by
  rw [← crc7Register_update, setWidth_shiftLeft_ushiftRight]

/-- The update depends on state and byte through the register only (R161, first form). -/
theorem crc7Update_eq_zero_register (c : BitVec 7) (d : Byte) : crc7Update c d = crc7Update 0 (crc7Register (c, d)) := by
  have hw : (crc7Update c d).setWidth 8 = (crc7Update 0 (crc7Register (c, d))).setWidth 8 := by
    rw [crc7Update_setWidth, crc7Update_setWidth, crc7Register_zero]
  simpa using congrArg (BitVec.setWidth 7) hw

/-- Settles O26: the register follows the update bit by bit, and the state 0 with the register as data has the same register. -/
theorem crcUpdateEquivalentForms : Obligations.CrcUpdateEquivalentForms :=
  fun c d => ⟨crc7Update_eq_zero_register c d, crc7Update_setWidth c d⟩

/-! The final byte -/

theorem crc7Final_toNat (c : BitVec 7) : (crc7Final c).toNat = if c.toNat = 0 then 128 else c.toNat := by
  unfold crc7Final
  by_cases h : c = 0
  · simp [h, Config.crc7ZeroSubst]
  · rw [if_neg h, if_neg (by simpa [BitVec.toNat_eq] using h), BitVec.toNat_setWidth_of_le (by decide)]

/-- R164: never 0x00 and never 0xFF. -/
theorem crc7Final_bounds (c : BitVec 7) : 0x01 ≤ crc7Final c ∧ crc7Final c ≤ 0x80 := by
  have hc := c.isLt
  have hf := crc7Final_toNat c
  simp only [BitVec.le_def, BitVec.ofNat_eq_ofNat, BitVec.toNat_ofNat]
  split at hf <;> omega

/-- The substitute 0x80 is no state, so it stands for the zero state alone. -/
theorem crc7Final_injective : Function.Injective crc7Final := by
  intro c c' h
  have hn := congrArg BitVec.toNat h
  rw [crc7Final_toNat, crc7Final_toNat] at hn
  apply BitVec.eq_of_toNat_eq
  split_ifs at hn <;> omega

/-! The three commands -/

/-- A command whose first step finishes is that step, completed. -/
theorem exec_of_finish {i : Instr} {f : Block → Turn} {rest : Rule} {s : State} {c : ResultCode} {b : Block}
    (hi : ruleOf Config.env i = f :: rest) (hf : f s.blk = .finish c b) : exec i s = .next (Completed s c b) := by
  rw [exec_eq_execWith, execWith, hi, runSteps_finish Config.env hf]
  rfl

/-- Settles O23: the rule's one step. -/
theorem crcInitSetsInitialState : Obligations.CrcInitSetsInitialState :=
  ⟨rfl, fun _ => exec_of_finish (i := .crcInit) rfl rfl⟩

/-- Settles O24: the rule's one step. -/
theorem crcUpdateFeedsOneByte : Obligations.CrcUpdateFeedsOneByte :=
  ⟨rfl, fun _ => exec_of_finish (i := .crcUpdate) rfl rfl⟩

/-- Settles O25: the rule's one step, and the final byte as a number. -/
theorem crcFinalWritesFinalByte : Obligations.CrcFinalWritesFinalByte :=
  ⟨rfl, fun _ => exec_of_finish (i := .crcFinal) rfl rfl, crc7Final_bounds, fun _ _ h => crc7Final_injective h⟩

end Sys2Proof.Machine
end

section
/-! SUPPORT. The FrameCodec unit (41_framecodec): the structural check as one condition on the fields (O28, O29), the header as
fields (O27, O30), the CRC trailer (O31, O32), and the insecure encode procedure (O33). -/

namespace Sys2Proof.Machine

/-! Field accessors as numbers (41_framecodec R180) -/

theorem frameIl_eq_mod (F : Nat → Byte) : frameIl F = (F 2).toNat % 16 := by simp [frameIl]

theorem frameTypeOf_toNat (F : Nat → Byte) : (frameTypeOf F).toNat = (F 1).toNat % 128 := by simp [frameTypeOf]

theorem frameSec_eq_false_iff (F : Nat → Byte) : frameSec F = false ↔ (F 1).toNat < 128 := by
  rw [frameSec, ← BitVec.msb_eq_getLsbD_last (F 1), BitVec.msb_eq_false_iff_two_mul_lt]
  omega

theorem reservedType_eq_false_iff (t : BitVec 7) : reservedType t = false ↔ t ≠ 0x00 ∧ t ≠ 0x7F := by
  simp [reservedType]

theorem frameFl_le (F : Nat → Byte) : frameFl F ≤ 255 := Nat.le_of_lt_succ (F 0).isLt

/-! The structural check (R184) -/

/-- R184's four steps as one condition on the fields. -/
theorem validateStructure_iff (F : Nat → Byte) (L maxfl : Nat) : validateStructure F L maxfl = true ↔
    (4 ≤ frameFl F ∧ frameFl F ≤ maxfl ∧ frameFl F + 1 ≤ L) ∧
    reservedType (frameTypeOf F) = false ∧
    (frameIl F ≤ 8 ∧ frameIl F + 4 ≤ frameFl F) ∧
    (4 + frameIl F + frameBl F ≤ frameFl F ∧
      (frameSec F = false → frameFl F = 4 + frameIl F + frameBl F) ∧
      F (frameFl F) ≠ 0x00 ∧ F (frameFl F) ≠ 0xFF) := by
  have htl : frameTl F = frameFl F - 3 - frameIl F - frameBl F := rfl
  have hflMin : Config.flMin = 4 := rfl
  have hidMax : Config.idLenRxMax = 8 := rfl
  simp only [validateStructure, Bool.if_false_left, Bool.and_eq_true, Bool.or_eq_true,
    Bool.not_eq_true', Bool.not_eq_true, decide_eq_true_eq, decide_eq_false_iff_not, beq_iff_eq, bne_iff_ne, not_or, not_and]
  constructor
  · rintro ⟨hL, ⟨hmin, hmax⟩, hbuf, htype, ⟨hid, hidfl⟩, hbody, htrailer, ⟨hzero, hff⟩, -⟩
    exact ⟨by omega, htype, by omega, by omega, fun h => by have := htrailer h; omega, hzero, hff⟩
  · rintro ⟨hlen, htype, hid, hbody, htrailer, hlast⟩
    exact ⟨by omega, by omega, by omega, htype, by omega, by omega, fun h => by have := htrailer h; omega, hlast, trivial⟩

/-- A frame that passes still passes when bytes that are not valid, or are above `fl`, change (R186). -/
theorem validateStructure_of_agree {F G : Nat → Byte} {L maxfl : Nat}
    (h : ∀ i : Nat, i < L → i ≤ (F 0).toNat → F i = G i) (hF : validateStructure F L maxfl = true) :
    validateStructure G L maxfl = true := by
  rw [validateStructure_iff] at hF ⊢
  obtain ⟨hlen, -, hid, -⟩ := id hF
  have hread (i : Nat) (hi : i ≤ frameFl F) : G i = F i := (h i (by omega) hi).symm
  have hfl : frameFl G = frameFl F := congrArg BitVec.toNat (hread 0 (by omega))
  have hil : frameIl G = frameIl F := by rw [frameIl, frameIl, hread 2 (by omega)]
  have hbl : frameBl G = frameBl F := by rw [frameBl, frameBl, hil, hread (3 + frameIl F) (by omega)]
  have htype : frameTypeOf G = frameTypeOf F := by rw [frameTypeOf, frameTypeOf, hread 1 (by omega)]
  have hsec : frameSec G = frameSec F := by rw [frameSec, frameSec, hread 1 (by omega)]
  rwa [hfl, hil, hbl, htype, hsec, hread (frameFl F) le_rfl]

/-- Settles O28: R184's steps as one condition, whose fields are read from the valid bytes up to `fl` only. -/
theorem validateStructureAcceptsExactly : Obligations.ValidateStructureAcceptsExactly := by
  refine ⟨fun F G L maxfl h => ?_, fun F L maxfl => ?_⟩
  · have hsymm (i : Nat) (hi : i < L) (hG : i ≤ (G 0).toNat) : G i = F i :=
      (h i hi (by rwa [h 0 (by omega) (by omega)])).symm
    exact Bool.eq_iff_iff.2 ⟨validateStructure_of_agree h, validateStructure_of_agree hsymm⟩
  · rw [validateStructure_iff, reservedType_eq_false_iff, frameSec_eq_false_iff, Ne, Ne, BitVec.toNat_eq, BitVec.toNat_eq,
      frameTypeOf_toNat, frameBl, frameIl_eq_mod]
    rfl

/-- VALIDATE's one step (R185). -/
theorem validateStep_eq (e : Env) (b : Block) :
    validateStep e b = .finish (if b.fbValid e then .ok else .malformedFrame) b := by
  unfold validateStep
  split_ifs <;> rfl

/-- Settles O29: the rule's one step. -/
theorem validateReportsTheCheck : Obligations.ValidateReportsTheCheck :=
  ⟨rfl, fun _ => exec_of_finish (i := .validate) rfl (validateStep_eq _ _)⟩

/-! DECODE (R187, R188) -/

theorem decodeStep_of_valid {e : Env} {b : Block} (h : b.fbValid e = true) :
    decodeStep e b = .finish .ok { b with dec := decodeFields (b.fb e) } := if_pos h

theorem decodeStep_of_invalid {e : Env} {b : Block} (h : b.fbValid e = false) :
    decodeStep e b = .finish .malformedFrame b := by simp [decodeStep, h]

/-- A byte register holds a number below 256 as it is. -/
theorem toNat_ofNat_byte {n : Nat} (h : n ≤ 255) : (BitVec.ofNat 8 n).toNat = n :=
  Nat.mod_eq_of_lt (by omega)

/-- A register that takes a byte of the frame as a number holds that byte. -/
theorem ofNat_toNat_byte (v : Byte) : BitVec.ofNat 8 v.toNat = v := by simp

/-- Settles O30: the numbers of a valid frame fit their registers, as header and body end at or below `fl`. -/
theorem decodeExposesFields : Obligations.DecodeExposesFields := by
  refine ⟨rfl, fun s => ⟨fun h => exec_of_finish (i := .decode) rfl (decodeStep_of_invalid h), fun h => ?_⟩⟩
  obtain ⟨-, -, -, hbody, -⟩ := (validateStructure_iff _ _ _).1 h
  set F := s.blk.fb Config.env
  have hfl := frameFl_le F
  have hidLen : (decodeFields F).idLen.toNat = frameIl F := toNat_ofNat_byte (by omega)
  have hbl : (decodeFields F).bl.toNat = frameBl F := toNat_ofNat_byte (by omega)
  have htl : (decodeFields F).tl.toNat = frameFl F - 3 - frameIl F - frameBl F :=
    toNat_ofNat_byte (by unfold frameTl; omega)
  have hbodyOff : (decodeFields F).bodyOff.toNat = 4 + frameIl F := toNat_ofNat_byte (by unfold frameBodyOff; omega)
  have htrlOff : (decodeFields F).trlOff.toNat = 4 + frameIl F + frameBl F :=
    toNat_ofNat_byte (by unfold frameTrlOff; omega)
  refine ⟨_, exec_of_finish (i := .decode) rfl (decodeStep_of_valid h), rfl, ofNat_toNat_byte _, rfl, rfl, rfl,
    hidLen.trans (frameIl_eq_mod F), ?bl, ?tl, ?bodyOff, ?trlOff⟩
  case bl => rw [← frameIl_eq_mod]; exact ofNat_toNat_byte _
  case tl =>
    change (decodeFields F).tl.toNat + 3 + (decodeFields F).idLen.toNat + (decodeFields F).bl.toNat =
      (BitVec.ofNat 8 (frameFl F)).toNat
    rw [htl, hidLen, hbl, toNat_ofNat_byte hfl]
    omega
  case bodyOff => exact hbodyOff.trans (congrArg (4 + ·) hidLen.symm)
  case trlOff => exact htrlOff.trans (by rw [← hidLen, ← hbl]; rfl)

/-! The header (R183) -/

/-- The frame in `F` begins with the header of these fields. -/
structure HeaderAt (F : Nat → Byte) (fl : Nat) (sec : Bool) (t : BitVec 7) (q : BitVec 4) (ids : List Byte) (bl : Nat) :
    Prop where
  fl : F 0 = BitVec.ofNat 8 fl
  type : F 1 = BitVec.ofBool sec ++ t
  seq : F 2 = q ++ BitVec.ofNat 4 ids.length
  idBytes : ∀ (j : Nat) (h : j < ids.length), F (3 + j) = ids[j]
  bl : F (3 + ids.length) = BitVec.ofNat 8 bl

section
variable {F G : Nat → Byte} {fl bl : Nat} {sec : Bool} {t : BitVec 7} {q : BitVec 4} {ids : List Byte}

/-- A frame that begins with `headerBytes` begins with the header. -/
theorem headerAt_of_headerBytes (h : ∀ (i : Nat) (hi : i < (headerBytes fl sec t q ids bl).length),
    F i = (headerBytes fl sec t q ids bl)[i]) : HeaderAt F fl sec t q ids bl := by
  have hlen := length_headerBytes fl sec t q ids bl
  refine ⟨h 0 (by omega), h 1 (by omega), h 2 (by omega), fun j hj => ?_, ?_⟩
  · rw [h (3 + j) (by omega)]
    simp [headerBytes, hj, Nat.add_comm 3 j]
  · rw [h (3 + ids.length) (by omega)]
    simp [headerBytes, Nat.add_comm 3]

/-- The header is read from its own bytes only. -/
theorem HeaderAt.congr (h : HeaderAt F fl sec t q ids bl) (hG : ∀ i : Nat, i < 4 + ids.length → G i = F i) :
    HeaderAt G fl sec t q ids bl where
  fl := (hG 0 (by omega)).trans h.fl
  type := (hG 1 (by omega)).trans h.type
  seq := (hG 2 (by omega)).trans h.seq
  idBytes j hj := (hG (3 + j) (by omega)).trans (h.idBytes j hj)
  bl := (hG (3 + ids.length) (by omega)).trans h.bl

theorem HeaderAt.frameFl_eq (h : HeaderAt F fl sec t q ids bl) (hfl : fl ≤ 255) : frameFl F = fl := by
  rw [frameFl, h.fl, toNat_ofNat_byte hfl]

theorem HeaderAt.frameTypeOf_eq (h : HeaderAt F fl sec t q ids bl) : frameTypeOf F = t := by
  rw [frameTypeOf, h.type, BitVec.extractLsb'_append_eq_right]

theorem HeaderAt.frameSec_eq (h : HeaderAt F fl sec t q ids bl) : frameSec F = sec := by
  rw [frameSec, h.type, BitVec.getLsbD_append]
  simp

theorem HeaderAt.frameSeq_eq (h : HeaderAt F fl sec t q ids bl) : frameSeq F = q := by
  rw [frameSeq, h.seq, BitVec.extractLsb'_append_eq_left]

theorem HeaderAt.frameIl_eq (h : HeaderAt F fl sec t q ids bl) (hid : ids.length ≤ 15) : frameIl F = ids.length := by
  rw [frameIl, h.seq, BitVec.extractLsb'_append_eq_right]
  exact Nat.mod_eq_of_lt (by omega)

theorem HeaderAt.frameBl_eq (h : HeaderAt F fl sec t q ids bl) (hid : ids.length ≤ 15) (hbl : bl ≤ 255) : frameBl F = bl := by
  rw [frameBl, h.frameIl_eq hid, h.bl, toNat_ofNat_byte hbl]

end

/-! HDR_ENCODE (R183) -/

/-- The length byte of the frame whose header HDR_ENCODE builds. -/
def Block.headerFl (b : Block) : Nat := 3 + b.argIdLen.toNat + b.argBl.toNat + tlOf b.secFlag

/-- The operands pass the four checks of HDR_ENCODE. -/
def Block.HeaderLegal (b : Block) : Prop :=
  b.argIdLen.toNat ≤ Config.idLenEncMax ∧ b.argBl.toNat ≤ Config.blMax ∧ reservedType b.frameType = false ∧
    b.headerFl ≤ Config.flMax

/-- The ID bytes among the operands. -/
def Block.idBytes (b : Block) : List Byte := bytesOf b.argId 0 b.argIdLen.toNat

/-- The block after HDR_ENCODE has written the header. -/
def Block.headerWritten (b : Block) : Block :=
  { b.writeFb 0 (headerBytes b.headerFl b.secFlag b.frameType b.argSeq b.idBytes b.argBl.toNat) with
    fbLen := BitVec.ofNat 9 (4 + b.argIdLen.toNat) }

@[simp] theorem length_idBytes (b : Block) : b.idBytes.length = b.argIdLen.toNat := length_bytesOf ..

theorem getElem_idBytes (b : Block) (j : Nat) (h : j < b.idBytes.length) : b.idBytes[j] = getByte b.argId j := by
  simp [Block.idBytes]

theorem HeaderAt.fb_idByte {F : Nat → Byte} {fl bl : Nat} {sec : Bool} {t : BitVec 7} {q : BitVec 4} {b : Block}
    (h : HeaderAt F fl sec t q b.idBytes bl) {j : Nat} (hj : j < b.argIdLen.toNat) : F (3 + j) = getByte b.argId j := by
  have hj' : j < b.idBytes.length := by rwa [length_idBytes]
  rw [h.idBytes j hj', getElem_idBytes]

theorem hdrEncodeStep_of_legal {b : Block} (h : b.HeaderLegal) : hdrEncodeStep b = .finish .ok b.headerWritten := by
  obtain ⟨hn, hb, ht, hfl⟩ := h
  rw [hdrEncodeStep, if_neg (Nat.not_lt.2 hn), if_neg (Nat.not_lt.2 hb), if_neg (by simp [ht])]
  exact if_neg (Nat.not_lt.2 hfl)

theorem hdrEncodeStep_of_not_legal {b : Block} (h : ¬b.HeaderLegal) : hdrEncodeStep b = .finish .invalidLength b := by
  unfold hdrEncodeStep
  dsimp only
  split_ifs with hn hb ht hfl
  case neg => exact absurd ⟨Nat.not_lt.1 hn, Nat.not_lt.1 hb, by simpa using ht, Nat.not_lt.1 hfl⟩ h
  all_goals rfl

theorem headerAt_headerWritten (e : Env) (b : Block) : HeaderAt (b.headerWritten.fb e) b.headerFl b.secFlag b.frameType
    b.argSeq b.idBytes b.argBl.toNat :=
  headerAt_of_headerBytes fun i hi => (bufByte_writeFb e b 0 _ i).trans (dif_pos ⟨Nat.zero_le i, by omega⟩)

theorem bufByte_headerWritten (e : Env) (b : Block) {a : Nat} (h : 4 + b.argIdLen.toNat ≤ a) :
    b.headerWritten.bufByte e a = b.bufByte e a :=
  (bufByte_writeFb e b 0 _ a).trans (dif_neg (by simp only [length_headerBytes, length_idBytes]; omega))

/-- Settles O27: the checks, then the header byte by byte. -/
theorem hdrEncodeWritesHeader : Obligations.HdrEncodeWritesHeader := by
  refine ⟨rfl, ?_⟩
  rintro s n b fl rfl rfl hfl
  replace hfl : fl = s.blk.headerFl := hfl
  subst hfl
  have hlegal : s.blk.HeaderLegal ↔ s.blk.argIdLen.toNat ≤ 15 ∧ s.blk.argBl.toNat ≤ 251 ∧
      (s.blk.frameType ≠ 0x00 ∧ s.blk.frameType ≠ 0x7F) ∧ s.blk.headerFl ≤ 255 := by
    rw [Block.HeaderLegal, reservedType_eq_false_iff]
    rfl
  constructor
  · intro hbad
    refine exec_of_finish (i := .hdrEncode) rfl (hdrEncodeStep_of_not_legal fun h => ?_)
    obtain ⟨hn, hb, ⟨ht, ht'⟩, hfl⟩ := hlegal.1 h
    rcases hbad with h | h | h | h | h
    exacts [by omega, by omega, ht h, ht' h, by omega]
  · intro hn hb ht ht' hfl
    have hheader := headerAt_headerWritten Config.env s.blk
    have hseq := hheader.seq
    have hbl' := hheader.bl.trans (ofNat_toNat_byte _)
    rw [length_idBytes] at hseq hbl'
    refine ⟨_, exec_of_finish (i := .hdrEncode) rfl (hdrEncodeStep_of_legal (hlegal.2 ⟨hn, hb, ⟨ht, ht'⟩, hfl⟩)), rfl,
      hheader.frameFl_eq hfl, hheader.type, hseq, fun j hj => hheader.fb_idByte hj, hbl',
      fun a ha => bufByte_headerWritten Config.env s.blk ha⟩

/-! The CRC trailer (R190, R192) -/

/-- The block after CRC_APPEND has written the trailer byte. -/
def Block.crcAppended (e : Env) (b : Block) : Block :=
  { b.writeFb b.fbl [b.fbCrc e b.fbl] with fbLen := BitVec.ofNat 9 (b.fbl + 1) }

theorem crcAppendStep_of_full (e : Env) {b : Block} (h : b.fbl = 256) : crcAppendStep e b = .finish .invalidLength b :=
  if_pos (by omega)

theorem crcAppendStep_of_room (e : Env) {b : Block} (h : b.fbl ≠ 256) :
    crcAppendStep e b = .finish .ok (b.crcAppended e) := by
  have hle : b.fbl ≤ 256 := Nat.min_le_right ..
  exact if_neg (by omega)

theorem bufByte_crcAppended (e : Env) (b : Block) (a : Nat) :
    (b.crcAppended e).bufByte e a = if a = b.fbl then b.fbCrc e b.fbl else b.bufByte e a := by
  refine (bufByte_writeFb e b b.fbl _ a).trans ?_
  by_cases h : a = b.fbl
  · simp [h]
  · rw [dif_neg (by simp only [List.length_singleton]; omega), if_neg h]

/-- A final CRC byte is neither 0x00 nor 0xFF (40_crc7 R164). -/
theorem crc7Final_ne (c : BitVec 7) : crc7Final c ≠ 0x00 ∧ crc7Final c ≠ 0xFF := by
  have h := crc7Final_bounds c
  constructor <;> (intro hc; rw [hc] at h; revert h; decide)

/-- `FBL` of a length that the buffer has. -/
theorem fbl_of_fbLen {b : Block} {n : Nat} (h : b.fbLen = BitVec.ofNat 9 n) (hn : n ≤ 256) : b.fbl = n := by
  have hreg : (BitVec.ofNat 9 n).toNat = n := Nat.mod_eq_of_lt (by omega)
  rw [Block.fbl, h, hreg]
  exact Nat.min_eq_left hn

/-- Settles O31: whether there is room, then the byte at `FBL` and every other byte. -/
theorem crcAppendWritesTrailer : Obligations.CrcAppendWritesTrailer :=
  ⟨rfl, fun s => ⟨fun h => exec_of_finish (i := .crcAppend) rfl (crcAppendStep_of_full _ h), fun h =>
    ⟨_, exec_of_finish (i := .crcAppend) rfl (crcAppendStep_of_room _ h), rfl,
      (bufByte_crcAppended Config.env s.blk _).trans (if_pos rfl),
      fun a ha => (bufByte_crcAppended Config.env s.blk a).trans (if_neg ha)⟩⟩⟩

/-- CRC_VERIFY's one step (R192): its three answers. -/
theorem crcVerifyStep_eq (e : Env) (b : Block) : crcVerifyStep e b = .finish
    (if b.fbValid e = false ∨ frameSec (b.fb e) = true then .malformedFrame
     else if b.fbCrc e (frameFl (b.fb e)) = b.fb e (frameFl (b.fb e)) then .ok
     else .crcMismatch) b := by
  unfold crcVerifyStep
  cases b.fbValid e
  · rfl
  · cases frameSec (b.fb e)
    · simp only [Bool.not_true, Bool.false_eq_true, Bool.true_eq_false, or_self, if_false]
      split_ifs <;> rfl
    · rfl

theorem crcVerifyStep_of_match {e : Env} {b : Block} (hvalid : b.fbValid e = true) (hsec : frameSec (b.fb e) = false)
    (hcrc : b.fbCrc e (frameFl (b.fb e)) = b.fb e (frameFl (b.fb e))) : crcVerifyStep e b = .finish .ok b := by
  simp [crcVerifyStep_eq, hvalid, hsec, hcrc]

/-- Settles O32: the rule's one step. -/
theorem crcVerifyComparesTrailer : Obligations.CrcVerifyComparesTrailer :=
  ⟨rfl, fun _ => exec_of_finish (i := .crcVerify) rfl (crcVerifyStep_eq _ _)⟩

/-! Host accesses of the encode procedure -/

/-- A command whose first step finishes, started by the Host. -/
theorem commandEnd_of_finish (e : Env) {i : Instr} {f : Block → Turn} {rest : Rule} {s : State} {c : ResultCode} {b : Block}
    (hi : ruleOf e i = f :: rest) (hf : f s.blk = .finish c b) :
    commandEnd e i s = (s.startCommand (encodeByte i)).complete c b := by
  rw [commandEnd, hi]
  exact runSteps_finish e hf

/-- The Host writes bytes into the buffers. -/
theorem hostWrites_buffer {s : State} (h : s.phase = .idle) (a : HostAddr) (l : List Byte) (hl : a.toNat + l.length ≤ bufEnd) :
    s.hostWrites a l = { s with blk := s.blk.writeFb a.toNat l } := by
  induction l generalizing s a with
  | nil => rfl
  | cons v vs ih =>
    rw [bufEnd, List.length_cons] at hl
    have hnext : (a + 1).toNat = a.toNat + 1 := BitVec.toNat_add_of_lt (by simp; omega)
    have hwrite : s.hostWrite a v = { s with blk := { s.blk with mem := s.blk.mem.set a.toNat v } } :=
      (hostWrite_idle h a v).trans (if_pos (by rw [bufEnd]; omega))
    rw [State.hostWrites, hwrite, ih (by exact h) (a + 1) (by rw [hnext, bufEnd]; omega), hnext]
    rfl

@[simp] theorem setLenLow_setLenHigh (r n : BitVec 9) : setLenLow (setLenHigh r (lenHigh n)) (lenLow n) = n := by
  rw [setLenLow, setLenHigh, BitVec.extractLsb'_append_eq_left, lenHigh, lenLow]
  clear r
  decide +revert

/-- The Host sets `FB_LEN`. -/
theorem hostFbLen_idle {s : State} (h : s.phase = .idle) (n : BitVec 9) :
    s.hostFbLen n = { s with blk := { s.blk with fbLen := n } } := by
  have hhigh : s.hostWrite Addr.fbLenH (lenHigh n) =
      { s with blk := { s.blk with fbLen := setLenHigh s.blk.fbLen (lenHigh n) } } := hostWrite_idle h _ _
  rw [State.hostFbLen, hhigh, hostWrite_idle (by exact h)]
  exact congrArg (fun v => { s with blk := { s.blk with fbLen := v } }) (setLenLow_setLenHigh s.blk.fbLen n)

/-! The insecure encode procedure (R193) -/

/-- The operands of R193: an insecure frame of a legal type, with an ID a receiver takes and the body that `BL` announces. -/
structure Block.InsecureOperands (b : Block) (body : List Byte) : Prop where
  insecure : b.secFlag = false
  type : reservedType b.frameType = false
  idLen : b.argIdLen.toNat ≤ 8
  bl : body.length = b.argBl.toNat
  fits : b.argIdLen.toNat + body.length ≤ 251

/-- The index of the body in FB. -/
def Block.bodyStart (b : Block) : Nat := 4 + b.argIdLen.toNat

/-- The block after the Host has written the body behind the header (R193 steps 2 and 3). -/
def Block.bodyWritten (b : Block) (body : List Byte) : Block :=
  { b.headerWritten.writeFb b.bodyStart body with fbLen := BitVec.ofNat 9 (b.bodyStart + body.length) }

/-- The block after the whole procedure. -/
def Block.insecureFrame (e : Env) (b : Block) (body : List Byte) : Block := (b.bodyWritten body).crcAppended e

theorem bufByte_bodyWritten (e : Env) (b : Block) (body : List Byte) (a : Nat) : (b.bodyWritten body).bufByte e a =
    if h : b.bodyStart ≤ a ∧ a < b.bodyStart + body.length then body[a - b.bodyStart]'(by omega)
    else b.headerWritten.bufByte e a :=
  bufByte_writeFb ..

section
variable {b : Block} {body : List Byte} (h : b.InsecureOperands body)
include h

namespace Block.InsecureOperands

theorem bodyEnd_le : b.bodyStart + body.length ≤ 255 := by
  have hfits := h.fits
  rw [Block.bodyStart]
  omega

/-- The length byte counts the bytes before the trailer, which has one byte. -/
theorem headerFl_eq : b.headerFl = b.bodyStart + body.length := by
  rw [Block.headerFl, h.insecure, ← h.bl, Block.bodyStart]
  simp only [tlOf, Config.tlInsecure, Bool.false_eq_true, if_false]
  omega

theorem headerLegal : b.HeaderLegal := by
  have hfits := h.fits
  have hbl := h.bl
  exact ⟨h.idLen.trans (by decide), by rw [Config.blMax]; omega, h.type, h.headerFl_eq.trans_le h.bodyEnd_le⟩

theorem fbl_bodyWritten : (b.bodyWritten body).fbl = b.bodyStart + body.length :=
  fbl_of_fbLen rfl (h.bodyEnd_le.trans (by decide))

theorem fbl_insecureFrame (e : Env) : (b.insecureFrame e body).fbl = b.bodyStart + body.length + 1 := by
  have hlen : (b.insecureFrame e body).fbLen = BitVec.ofNat 9 ((b.bodyWritten body).fbl + 1) := rfl
  rw [h.fbl_bodyWritten] at hlen
  exact fbl_of_fbLen hlen (Nat.succ_le_succ h.bodyEnd_le)

/-- The bytes of the frame before its trailer are those that HDR_ENCODE and the Host wrote. -/
theorem fb_of_lt (e : Env) {a : Nat} (ha : a < b.bodyStart + body.length) :
    (b.insecureFrame e body).fb e a = (b.bodyWritten body).fb e a := by
  refine (bufByte_crcAppended e (b.bodyWritten body) a).trans (if_neg ?_)
  rw [h.fbl_bodyWritten]
  omega

theorem headerAt (e : Env) : HeaderAt ((b.insecureFrame e body).fb e) (b.bodyStart + body.length) false b.frameType
    b.argSeq b.idBytes b.argBl.toNat := by
  rw [← h.insecure, ← h.headerFl_eq]
  refine (headerAt_headerWritten e b).congr fun i hi => ?_
  replace hi : i < b.bodyStart := by rwa [length_idBytes] at hi
  rw [h.fb_of_lt e (by omega)]
  exact (bufByte_bodyWritten e b body i).trans (dif_neg (by omega))

theorem frameFl_eq (e : Env) : frameFl ((b.insecureFrame e body).fb e) = b.bodyStart + body.length :=
  (h.headerAt e).frameFl_eq h.bodyEnd_le

theorem frameIl_eq (e : Env) : frameIl ((b.insecureFrame e body).fb e) = b.argIdLen.toNat := by
  have hid : b.idBytes.length ≤ 15 := (length_idBytes b).trans_le (h.idLen.trans (by decide))
  rw [(h.headerAt e).frameIl_eq hid, length_idBytes]

theorem frameBl_eq (e : Env) : frameBl ((b.insecureFrame e body).fb e) = b.argBl.toNat := by
  have hid : b.idBytes.length ≤ 15 := (length_idBytes b).trans_le (h.idLen.trans (by decide))
  exact (h.headerAt e).frameBl_eq hid (Nat.le_of_lt_succ b.argBl.isLt)

/-- FB holds the body. -/
theorem bufSlice_eq (e : Env) : bufSlice ((b.insecureFrame e body).fb e) b.bodyStart body.length = body := by
  refine List.ext_getElem (length_bufSlice ..) fun j _ hj => ?_
  rw [getElem_bufSlice, h.fb_of_lt e (by omega)]
  refine (bufByte_bodyWritten e b body _).trans ((dif_pos (by omega)).trans ?_)
  simp

/-- The trailer is the CRC of the bytes before it. -/
theorem fbCrc_eq_trailer (e : Env) : (b.insecureFrame e body).fbCrc e (b.bodyStart + body.length) =
    (b.insecureFrame e body).fb e (b.bodyStart + body.length) := by
  have htrailer := (bufByte_crcAppended e (b.bodyWritten body) _).trans (if_pos h.fbl_bodyWritten.symm)
  rw [h.fbl_bodyWritten] at htrailer
  refine Eq.trans (congrArg (fun l => crc7Final (crc7 l)) (List.map_congr_left fun j hj => ?_)) htrailer.symm
  have hj := List.mem_range.1 hj
  exact h.fb_of_lt e (by omega)

/-- The frame passes the structural check. -/
theorem fbValid (e : Env) (hmax : b.maxFl = 0xFF) : (b.insecureFrame e body).fbValid e = true := by
  have hle := h.bodyEnd_le
  have hidLen := h.idLen
  have hstart : b.bodyStart = 4 + b.argIdLen.toNat := rfl
  have hbl := h.bl
  have hmaxFl : (b.insecureFrame e body).maxFl.toNat = 255 := congrArg BitVec.toNat hmax
  rw [Block.fbValid, validateStructure_iff, h.frameFl_eq e, (h.headerAt e).frameTypeOf_eq, h.frameIl_eq e, h.frameBl_eq e,
    h.fbl_insecureFrame e, hmaxFl, ← h.fbCrc_eq_trailer e]
  exact ⟨by omega, h.type, by omega, by omega, fun _ => by omega, crc7Final_ne _⟩

end Block.InsecureOperands

end

/-- The encode procedure completes with the frame in FB. -/
theorem insecureEncode_eq (e : Env) {s : State} {body : List Byte} (h : s.blk.InsecureOperands body) :
    ∃ t : State, insecureEncode e s body = t.complete .ok (s.blk.insecureFrame e body) := by
  have hle := h.bodyEnd_le
  have hstart : (BitVec.ofNat 10 s.blk.bodyStart).toNat = s.blk.bodyStart := Nat.mod_eq_of_lt (by omega)
  have hstep : crcAppendStep e ((s.blk.bodyWritten body).withStg Staging.empty) =
      .finish .ok ((s.blk.insecureFrame e body).withStg Staging.empty) := by
    rw [crcAppendStep_stgFree, crcAppendStep_of_room e (by rw [h.fbl_bodyWritten]; omega)]
    rfl
  have happend {t : State} (ht : t.blk = (s.blk.bodyWritten body).withStg Staging.empty) : commandEnd e .crcAppend t =
      (t.startCommand (encodeByte .crcAppend)).complete .ok (s.blk.insecureFrame e body) :=
    (commandEnd_of_finish e (i := .crcAppend) rfl ((congrArg (crcAppendStep e) ht).trans hstep)).trans rfl
  have hheader := commandEnd_of_finish e (i := .hdrEncode) rfl (hdrEncodeStep_of_legal h.headerLegal)
  change ∃ t : State, commandEnd e .crcAppend (((commandEnd e .hdrEncode s).hostWrites (BitVec.ofNat 10 s.blk.bodyStart)
    body).hostFbLen (BitVec.ofNat 9 (s.blk.bodyStart + body.length))) = _
  rw [hheader, hostWrites_buffer rfl _ _ (by rw [hstart, bufEnd]; omega), hstart, hostFbLen_idle rfl]
  exact ⟨_, happend rfl⟩

/-- Settles O33: the frame the procedure leaves has its header, body and trailer in place, and every receiver's check reads it
back. -/
theorem insecureFrameRoundTrip : Obligations.InsecureFrameRoundTrip := by
  intro e s body hsec ht ht' hid hbl hfits hmax
  have h : s.blk.InsecureOperands body := ⟨hsec, (reservedType_eq_false_iff _).2 ⟨ht, ht'⟩, hid, hbl, hfits⟩
  have hheader := h.headerAt e
  obtain ⟨t, hu⟩ := insecureEncode_eq e h
  generalize insecureEncode e s body = u at hu
  have hfb : u.blk.fb e = (s.blk.insecureFrame e body).fb e := by rw [hu]; rfl
  have hvalid : u.blk.fbValid e = true := by rw [hu]; exact h.fbValid e hmax
  have hverify : crcVerifyStep e u.blk = .finish .ok u.blk := by
    refine crcVerifyStep_of_match hvalid (by rw [hfb, hheader.frameSec_eq]) ?_
    rw [Block.fbCrc, hfb, h.frameFl_eq e]
    exact h.fbCrc_eq_trailer e
  refine ⟨u, rfl, by rw [hu]; rfl, ?validate, ?crcVerify, ?_⟩
  case validate =>
    rw [commandEnd_of_finish e (i := .validate) rfl (validateStep_eq e u.blk), hvalid]
    rfl
  case crcVerify =>
    rw [commandEnd_of_finish e (i := .crcVerify) rfl hverify]
    rfl
  rw [commandEnd_of_finish e (i := .decode) rfl (decodeStep_of_valid hvalid), hfb]
  refine ⟨rfl, hheader.frameTypeOf_eq, hheader.frameSec_eq, hheader.frameSeq_eq, ?idLen, ?bl,
    fun j hj => hheader.fb_idByte hj, h.bufSlice_eq e⟩
  case idLen => exact (congrArg (BitVec.ofNat 8) (h.frameIl_eq e)).trans (ofNat_toNat_byte _)
  case bl => exact (congrArg (BitVec.ofNat 8) (h.frameBl_eq e)).trans (ofNat_toNat_byte _)

end Sys2Proof.Machine
end

section
/-! SUPPORT. The NonceAssembler unit (42_nonce): the bytes of an IV determine its direction and its counters (O35), and NONCE_BUILD
writes the bytes R220 lists (O34). -/

namespace Sys2Proof.Machine

/-! What the bytes of an IV determine (R221) -/

/-- Where the direction is forced, it is bit 7 of IV byte 5. -/
theorem IvBytes.msb_eq_sending {f : Nat → Byte} {r m : Ctr} {sending : Bool} {iv : BitVec 96}
    (h : IvBytes true f r m sending iv) : (getByte iv 5).msb = sending := by
  rw [h.dir, if_pos rfl]
  exact BitVec.msb_append.trans (by simp)

/-- An IV has one counter pair, whatever ID and direction it is read with. -/
theorem IvBytes.counters_unique {force force' : Bool} {f f' : Nat → Byte} {r m r' m' : Ctr} {sending sending' : Bool}
    {iv : BitVec 96} (h : IvBytes force f r m sending iv) (h' : IvBytes force' f' r' m' sending' iv) : r = r' ∧ m = m' :=
  ⟨getByte_ext (n := 3) r r' fun j hj => (h.restart j hj).symm.trans (h'.restart j hj),
    getByte_ext (n := 3) m m' fun j hj => (h.message j hj).symm.trans (h'.message j hj)⟩

/-- The last byte of a counter has its low nibble. -/
theorem getByte_two_lowNibble (v : Ctr) : (getByte v 2).extractLsb' 0 4 = v.extractLsb' 0 4 := by
  rw [getByte, BitVec.extractLsb'_extractLsb'_of_le (by omega)]

/-- Settles O35: an IV's byte 5 gives its direction, its bytes 6 to 11 its counters. -/
theorem noncesAreDistinct : Obligations.NoncesAreDistinct := by
  refine ⟨?directions, ?pairs, ?nibble⟩
  case directions =>
    intro id6 r m r' m' heq
    have hsend := (ivBytes_nonce true id6 r m .sending).msb_eq_sending
    have hreceive := (ivBytes_nonce true id6 r' m' .receiving).msb_eq_sending
    rw [heq, hreceive] at hsend
    cases hsend
  case pairs =>
    intro force id6 dir r m r' m' heq
    have h := ivBytes_nonce force id6 r m dir
    rw [heq] at h
    exact h.counters_unique (ivBytes_nonce force id6 r' m' dir)
  case nibble =>
    intro force id6 dir r m
    rw [(ivBytes_nonce force id6 r m dir).message 2 (by omega), getByte_two_lowNibble]

/-! NONCE_BUILD (R222) -/

theorem dirFlag_beq_sending (b : Block) : (b.dirFlag == .sending) = b.argFlags.getLsbD 1 := by
  unfold Block.dirFlag
  cases b.argFlags.getLsbD 1 <;> rfl

/-- NONCE_BUILD's IV, byte by byte from the argument registers. -/
theorem ivBytes_nonceBuild (force : Bool) (b : Block) : IvBytes force (getByte b.argId) b.argR b.argM (b.argFlags.getLsbD 1)
    (nonce force (id6Of b.argId) b.argR b.argM b.dirFlag) := by
  rw [← dirFlag_beq_sending]
  exact (ivBytes_iff fun j hj => (getByte_extract b.argId 48 j (by omega) (by omega)).symm).2 rfl

/-- Settles O34: the rule's one step, and its IV byte by byte. -/
theorem nonceBuildAssemblesIv : Obligations.NonceBuildAssemblesIv := by
  refine ⟨rfl, fun s => ⟨_, exec_of_finish (i := .nonceBuild) rfl rfl, rfl, ?_⟩⟩
  obtain ⟨hid, hdir, hrestart, hmessage⟩ := ivBytes_nonceBuild true s.blk
  exact ⟨hid, hdir, hrestart, hmessage⟩

end Sys2Proof.Machine
end

section
/-! SUPPORT. The ReplayGuard commands (43_replayguard), for any agents and parameters: what their steps do, and how the commands
end (O36 to O41). -/

namespace Sys2Proof.Machine

/-! What happens to a slot -/

/-- The slot with the recorded pair of an NV record and the first pair of an epoch one above the record's (R237). -/
def Slot.restarted (sl : Slot) (rec : List Byte) (seed : Ctr) : Slot :=
  { sl with
    rxLav := byteAt rec 3 != 0x00, rxLr := be24At rec 4, rxLm := be24At rec 7
    txRc := be24At rec 0 + 1, txMc := seed, txExh := false }

/-- The slot opened on an NV record with an epoch left (R237). -/
def Slot.opened (sl : Slot) (rec : List Byte) (seed : Ctr) : Slot := { sl.restarted rec seed with isOpen := true }

/-- The slot opened on an NV record at the last restart counter: for receiving only (R237). -/
def Slot.openedExhausted (sl : Slot) (rec : List Byte) : Slot :=
  { sl with
    rxLav := byteAt rec 3 != 0x00, rxLr := be24At rec 4, rxLm := be24At rec 7
    txRc := Config.ctrMax, txMc := Config.ctrMax, txExh := true, isOpen := true }

/-- The record of ten zero bytes, on which ASSOC_REKEY opens (R239). -/
def zeroRecord : List Byte := List.replicate Config.nvRecBytes 0x00

/-- The slot after it handed out its next pair, the seed of a new epoch being `seed` (R240). -/
def Slot.advancedBy (sl : Slot) (seed : Ctr) : Slot :=
  if sl.txMc ≠ Config.ctrMax then { sl with txMc := sl.txMc + 1 }
  else if sl.txRc ≠ Config.ctrMax then { sl with txRc := sl.txRc + 1, txMc := seed }
  else { sl with txExh := true }

/-- The NV record that handing out the next pair writes, if any (R240). -/
def Slot.advanceWrite (sl : Slot) (seed : Ctr) : Option (List Byte) :=
  if sl.rollsOver then some (sl.advancedBy seed).record else none

theorem lt_ctrMax_iff (v : Ctr) : v < Config.ctrMax ↔ v ≠ Config.ctrMax := by
  rw [Config.ctrMax]
  constructor
  · rintro h rfl
    exact absurd h (by decide)
  · intro h
    bv_omega

/-! What the steps do -/

theorem withOpenSlot_of_open (f : Nat → Block → Turn) {b : Block} (hk : b.argSlot.toNat < Config.pAssoc)
    (ho : (b.slot b.argSlot.toNat).isOpen = true) : withOpenSlot f b = f b.argSlot.toNat b := by
  obtain ⟨hge, _⟩ | ⟨_, hc, _⟩ | ⟨_, _, h⟩ := withOpenSlot_cases f b
  · omega
  · simp [ho] at hc
  · exact h

/-- `advance` in the words of the slot (R240). -/
theorem advance_eq (e : Env) (k : Nat) (b : Block) : advance e k b =
    ((if (b.slot k).rollsOver then (takeSeed e b).2 else b).setSlot k ((b.slot k).advancedBy (takeSeed e b).1),
      ((b.slot k).advanceWrite (takeSeed e b).1).map (.nvWrite k)) := by
  obtain ⟨hm, ha⟩ | ⟨hm, hr, ha⟩ | ⟨hm, hr, ha⟩ := advance_cases e k b
  all_goals
    rw [lt_ctrMax_iff] at *
    simp_all [Slot.advancedBy, Slot.advanceWrite, Slot.rollsOver]

/-- The slot of `ARG_SLOT` is there, open, and has a pair to hand out. -/
structure Block.CanSend (b : Block) : Prop where
  lt : b.argSlot.toNat < Config.pAssoc
  isOpen : (b.slot b.argSlot.toNat).isOpen = true
  notExhausted : (b.slot b.argSlot.toNat).txExh = false

/-- The slot of `ARG_SLOT` is there and open, and the pair is fresh on it. -/
structure Block.CanRecord (b : Block) (r m : Ctr) : Prop where
  lt : b.argSlot.toNat < Config.pAssoc
  isOpen : (b.slot b.argSlot.toNat).isOpen = true
  fresh : (b.slot b.argSlot.toNat).fresh r m = true

/-- The block with the next pair of slot `k` in `ARG_R` and `ARG_M` (R241). -/
def Block.pairTaken (b : Block) (k : Nat) : Block := { b with argR := (b.slot k).txRc, argM := (b.slot k).txMc }

/-- The turn that ends in `advance` on the slot of `ARG_SLOT`. -/
def advanceTurn (e : Env) (b : Block) : Turn :=
  Turn.askIf (advance e b.argSlot.toNat b).2 (advance e b.argSlot.toNat b).1

section
variable (e : Env) {b : Block}

theorem openLoad_of_ne (h : be24At b.stg.data 0 ≠ Config.ctrMax) : openLoad e b =
    .ask (.nvWrite b.argSlot.toNat ((b.slot b.argSlot.toNat).restarted b.stg.data (takeSeed e b).1).record)
      ((takeSeed e b).2.setSlot b.argSlot.toNat ((b.slot b.argSlot.toNat).restarted b.stg.data (takeSeed e b).1)) :=
  if_neg h

theorem openLoad_of_eq (h : be24At b.stg.data 0 = Config.ctrMax) : openLoad e b =
    .finish .counterSpaceExhausted
      (b.setSlot b.argSlot.toNat ((b.slot b.argSlot.toNat).openedExhausted b.stg.data)) :=
  if_pos h

/-- "This is ASSOC_OPEN applied to a record of ten zero bytes" (R239). -/
theorem rekeyStart_cases (b : Block) :
    (Config.pAssoc ≤ b.argSlot.toNat ∧ rekeyStart e b = .finish .invalidSlot b) ∨
    (b.argSlot.toNat < Config.pAssoc ∧ rekeyStart e b =
      .ask (.nvWrite b.argSlot.toNat ((b.slot b.argSlot.toNat).restarted zeroRecord (takeSeed e b).1).record)
        ((takeSeed e b).2.setSlot b.argSlot.toNat ((b.slot b.argSlot.toNat).restarted zeroRecord (takeSeed e b).1))) :=
  withSlot_cases _ b

theorem txNextStep_of_exhausted (hk : b.argSlot.toNat < Config.pAssoc) (ho : (b.slot b.argSlot.toNat).isOpen = true)
    (hx : (b.slot b.argSlot.toNat).txExh = true) : txNextStep e b = .finish .counterSpaceExhausted b := by
  rw [txNextStep, withOpenSlot_of_open _ hk ho, if_pos hx]

theorem txNextStep_of_canSend (h : b.CanSend) : txNextStep e b = advanceTurn e (b.pairTaken b.argSlot.toNat) := by
  rw [txNextStep, withOpenSlot_of_open _ h.lt h.isOpen, if_neg (by simp [h.notExhausted])]
  rfl

theorem txNextStep_cases (b : Block) : (∃ c, c ≠ .ok ∧ txNextStep e b = .finish c b) ∨
    b.CanSend ∧ txNextStep e b = advanceTurn e (b.pairTaken b.argSlot.toNat) := by
  obtain ⟨_, h⟩ | ⟨_, _, h⟩ | ⟨hk, ho, _⟩ := withOpenSlot_cases _ b
  · exact .inl ⟨.invalidSlot, nofun, h⟩
  · exact .inl ⟨.notOpen, nofun, h⟩
  · cases hx : (b.slot b.argSlot.toNat).txExh
    · exact .inr ⟨⟨hk, ho, hx⟩, txNextStep_of_canSend e ⟨hk, ho, hx⟩⟩
    · exact .inl ⟨.counterSpaceExhausted, nofun, txNextStep_of_exhausted e hk ho hx⟩

theorem rxCheckStep_of_open (hk : b.argSlot.toNat < Config.pAssoc) (ho : (b.slot b.argSlot.toNat).isOpen = true) :
    rxCheckStep b =
      .finish (if (b.slot b.argSlot.toNat).fresh b.argR b.argM then .ok else .replayRejected) b := by
  rw [rxCheckStep, withOpenSlot_of_open _ hk ho]
  split_ifs <;> rfl

theorem rxCommitStep_of_open (hk : b.argSlot.toNat < Config.pAssoc) (ho : (b.slot b.argSlot.toNat).isOpen = true) :
    rxCommitStep b = if (b.slot b.argSlot.toNat).fresh b.argR b.argM
      then commitTurn b.argSlot.toNat b.argR b.argM b else .finish .replayRejected b :=
  withOpenSlot_of_open _ hk ho

theorem rxRatchetStep_of_open (hk : b.argSlot.toNat < Config.pAssoc) (ho : (b.slot b.argSlot.toNat).isOpen = true) :
    rxRatchetStep b = if (b.slot b.argSlot.toNat).fresh b.argR Config.ctrMax
      then commitTurn b.argSlot.toNat b.argR Config.ctrMax b else .finish .ok b :=
  withOpenSlot_of_open _ hk ho

/-- What a step of `withOpenSlot` can do that commits a pair if it is fresh and else finishes. -/
theorem withOpenSlot_commit_cases {f : Nat → Block → Turn} {r m : Ctr} {c : ResultCode}
    (hf : f b.argSlot.toNat b = if (b.slot b.argSlot.toNat).fresh r m
      then commitTurn b.argSlot.toNat r m b else .finish c b) :
    (∃ c, withOpenSlot f b = .finish c b) ∨
    b.CanRecord r m ∧ withOpenSlot f b = commitTurn b.argSlot.toNat r m b := by
  obtain ⟨_, h⟩ | ⟨_, _, h⟩ | ⟨hk, ho, h⟩ := withOpenSlot_cases f b
  · exact .inl ⟨_, h⟩
  · exact .inl ⟨_, h⟩
  · rw [hf] at h
    split_ifs at h with hfresh
    · exact .inr ⟨⟨hk, ho, hfresh⟩, h⟩
    · exact .inl ⟨_, h⟩

theorem rxCommitStep_cases (b : Block) : (∃ c, rxCommitStep b = .finish c b) ∨
    b.CanRecord b.argR b.argM ∧ rxCommitStep b = commitTurn b.argSlot.toNat b.argR b.argM b :=
  withOpenSlot_commit_cases rfl

theorem rxRatchetStep_cases (b : Block) : (∃ c, rxRatchetStep b = .finish c b) ∨
    b.CanRecord b.argR Config.ctrMax ∧ rxRatchetStep b = commitTurn b.argSlot.toNat b.argR Config.ctrMax b :=
  withOpenSlot_commit_cases rfl

end

/-! The state at the end of a slot command -/

/-- The state with the block `b`, after the NV write of `written` as record `k`, if there is one. -/
def State.stored (s : State) (k : Nat) (b : Block) (written : Option (List Byte)) : State :=
  { s with
    blk := b, nv := written.elim s.nv (nvStore s.nv k), requests := s.requests ++ (written.map (.nvWrite k)).toList }

/-- A slot command's end in the words of `SlotCommandEnds`, as the state it is. -/
def State.slotEnd (s : State) (code : ResultCode) (b : Block) (k : Nat) (sl : Slot) (reqs : List Request)
    (written : Option (List Byte)) : State :=
  { Completed s code (b.setSlot k sl) with
    nv := written.elim s.nv (nvStore s.nv k), requests := s.requests ++ reqs }

theorem nvRecord_stored (e : Env) (s : State) (k : Nat) (b : Block) (written : Option (List Byte))
    (hw : ∀ rec ∈ written, rec.length = Config.nvRecBytes) (j : Nat) : nvRecord e (s.stored k b written).nv j =
      if j = k then written.getD (nvRecord e s.nv k) else nvRecord e s.nv j := by
  cases written with
  | none => split_ifs with h <;> simp [State.stored, h]
  | some rec => exact nvRecord_nvStore e s.nv k j rec (hw rec rfl)

theorem slotCommandEnds_slotEnd (e : Env) (s : State) (code : ResultCode) {b : Block} {k : Nat} (sl : Slot)
    (reqs : List Request) {written : Option (List Byte)} (hk : k < Config.pAssoc) (hb : b.slots = s.blk.slots)
    (hw : ∀ rec ∈ written, rec.length = Config.nvRecBytes) :
    SlotCommandEnds e s (s.slotEnd code b k sl reqs written) code b k sl reqs written := by
  refine ⟨rfl, fun j => ?_, ?_, nvRecord_stored e s k b written hw⟩
  · refine (slot_setSlot b hk sl j).trans ?_
    rw [Block.slot, hb, ← Block.slot]
  · rintro rfl
    rfl

section
variable (e : Env) {f : Block → Turn} (rest : Rule) {s : State}

theorem runSteps_nvWrite {k : Nat} {rec : List Byte} {b : Block} (hf : f s.blk = .ask (.nvWrite k rec) b) :
    runSteps e (f :: rest) s = runSteps e rest (s.stored k b (some rec)) :=
  runSteps_ask e hf

theorem runSteps_commitTurn {k : Nat} {r m : Ctr} {b : Block} (hf : f s.blk = commitTurn k r m b) :
    runSteps e (f :: rest) s = runSteps e rest (s.stored k (b.setSlot k ((b.slot k).recordPair r m))
      (some ((b.slot k).recordPair r m).record)) :=
  runSteps_nvWrite e rest hf

theorem runSteps_advanceTurn {b : Block} {k : Nat} (hk : b.argSlot.toNat = k) (hf : f s.blk = advanceTurn e b) :
    runSteps e (f :: rest) s = runSteps e rest (s.stored k
      ((if (b.slot k).rollsOver then (takeSeed e b).2 else b).setSlot k ((b.slot k).advancedBy (takeSeed e b).1))
      ((b.slot k).advanceWrite (takeSeed e b).1)) := by
  rw [advanceTurn, hk, advance_eq] at hf
  cases hw : (b.slot k).advanceWrite (takeSeed e b).1 with
  | some rec => rw [hw] at hf; exact runSteps_nvWrite e rest hf
  | none =>
    rw [hw] at hf
    rw [runSteps_go e hf]
    simp [State.stored]

end

/-! How each command ends -/

/-- Completion after an NV write, the slot being written last. -/
theorem complete_stored (s : State) (code : ResultCode) (k : Nat) (b b' : Block) (sl : Slot) (written : Option (List Byte)) :
    (s.stored k b' written).complete code (b.setSlot k sl) =
      s.slotEnd code b k sl (written.map (.nvWrite k)).toList written := rfl

/-- The end of a command after earlier requests that changed nothing but `STG`. -/
theorem slotEnd_after (s : State) (code : ResultCode) (k : Nat) (b b' : Block) (g : Staging) (sl : Slot)
    (reqs reqs' : List Request) (written : Option (List Byte)) :
    State.slotEnd { s with blk := b', requests := s.requests ++ reqs } code (b.withStg g) k sl reqs' written =
      s.slotEnd code b k sl (reqs ++ reqs') written := by
  simp only [State.slotEnd, ← List.append_assoc]
  rfl

theorem setSlot_setSlot (b : Block) (k : Nat) (sl sl' : Slot) : (b.setSlot k sl).setSlot k sl' = b.setSlot k sl' := by
  simp [Block.setSlot]

@[simp] theorem takeSeed_argSlot (e : Env) (b : Block) : (takeSeed e b).2.argSlot = b.argSlot := by
  obtain ⟨_, h⟩ | ⟨_, h⟩ := takeSeed_cases e b <;> rw [h]

/-- `OPEN` is not in the NV record (20_memory R94). -/
theorem record_opened (sl : Slot) (rec : List Byte) (seed : Ctr) :
    (sl.opened rec seed).record = (sl.restarted rec seed).record := rfl

/-- The NV write and the last step of ASSOC_OPEN and of ASSOC_REKEY. -/
theorem runSteps_restart (e : Env) {f : Block → Turn} {s : State} {b : Block} {k : Nat} {sl : Slot} {rec : List Byte}
    {seed : Ctr} (hf : f s.blk = .ask (.nvWrite k (sl.restarted rec seed).record) (b.setSlot k (sl.restarted rec seed)))
    (hk : b.argSlot.toNat = k) (hlt : k < Config.pAssoc) : runSteps e [f, openDone] s =
      s.slotEnd .ok b k (sl.opened rec seed) [.nvWrite k (sl.opened rec seed).record] (some (sl.opened rec seed).record) := by
  rw [runSteps_nvWrite e _ hf, record_opened]
  refine (runSteps_finish e (f := openDone) (c := .ok) (b := b.setSlot k (sl.opened rec seed)) ?_).trans
    (complete_stored ..)
  rw [State.stored, openDone, Block.setSlot_argSlot, hk, slot_setSlot_same b hlt, setSlot_setSlot]
  rfl

/-- The state after the NV agent has answered the read of record `k`. -/
def State.recordRead (s : State) (rec : List Byte) (k : Nat) : State :=
  { s with blk := s.blk.withStg { s.blk.stg with data := rec }, requests := s.requests ++ [.nvRead k] }

theorem answer_nvRead (e : Env) (s : State) (k : Nat) :
    answer e (s.issue (.nvRead k) s.blk) (.nvRead k) = s.recordRead (nvRecord e s.nv k) k := rfl

section
variable (e : Env) {s : State} {k : Nat} (hk : s.blk.argSlot.toNat = k) (hlt : k < Config.pAssoc)
include hk hlt

/-- ASSOC_OPEN after its `NvRead`. -/
theorem runSteps_assocOpen :
    runSteps e (assocOpenRule e) s = runSteps e [openLoad e, openDone] (s.recordRead (nvRecord e s.nv k) k) := by
  subst hk
  obtain ⟨hge, _⟩ | ⟨_, h⟩ := openRead_cases s.blk
  · omega
  · rw [assocOpenRule, runSteps_ask e h, answer_nvRead]

theorem assocOpen_end {rec : List Byte} (hrec : rec = nvRecord e s.nv k) (h : be24At rec 0 ≠ Config.ctrMax) {sl : Slot}
    (hsl : sl = (s.blk.slot k).opened rec (takeSeed e s.blk).1) : runSteps e (assocOpenRule e) s =
      s.slotEnd .ok (takeSeed e s.blk).2 k sl [.nvRead k, .nvWrite k sl.record] (some sl.record) := by
  have hload := openLoad_of_ne e (b := s.blk.withStg { s.blk.stg with data := rec }) h
  rw [takeSeed_withStg, Block.withStg_argSlot, Block.withStg_stg, Block.withStg_slot, hk] at hload
  rw [runSteps_assocOpen e hk hlt, ← hrec, hsl]
  exact (runSteps_restart e hload (by simp [hk]) hlt).trans (slotEnd_after ..)

theorem assocOpen_end_exhausted {rec : List Byte} (hrec : rec = nvRecord e s.nv k) (h : be24At rec 0 = Config.ctrMax) :
    runSteps e (assocOpenRule e) s =
      s.slotEnd .counterSpaceExhausted s.blk k ((s.blk.slot k).openedExhausted rec) [.nvRead k] none := by
  have hload := openLoad_of_eq e (b := s.blk.withStg { s.blk.stg with data := rec }) h
  rw [Block.withStg_argSlot, Block.withStg_stg, Block.withStg_slot, hk] at hload
  rw [runSteps_assocOpen e hk hlt, ← hrec, State.recordRead, runSteps_finish e hload]
  rfl

theorem assocRekey_end {sl : Slot} (hsl : sl = (s.blk.slot k).opened zeroRecord (takeSeed e s.blk).1) :
    runSteps e (assocRekeyRule e) s =
      s.slotEnd .ok (takeSeed e s.blk).2 k sl [.nvWrite k sl.record] (some sl.record) := by
  obtain ⟨hge, _⟩ | ⟨_, h⟩ := rekeyStart_cases e s.blk
  · omega
  · rw [hk] at h
    rw [hsl]
    exact runSteps_restart e h (by simp [hk]) hlt

theorem txNext_end (ho : (s.blk.slot k).isOpen = true) (hx : (s.blk.slot k).txExh = false) {b : Block}
    (hb : b = s.blk.pairTaken k) {seed : Ctr} (hseed : seed = (takeSeed e b).1) : runSteps e (txNextRule e) s =
      s.slotEnd .ok (if (s.blk.slot k).rollsOver then (takeSeed e b).2 else b) k ((s.blk.slot k).advancedBy seed)
        (((s.blk.slot k).advanceWrite seed).map (.nvWrite k)).toList ((s.blk.slot k).advanceWrite seed) := by
  subst hk
  have hstep := txNextStep_of_canSend e ⟨hlt, ho, hx⟩
  rw [← hb] at hstep
  have hslot : b.slot s.blk.argSlot.toNat = s.blk.slot s.blk.argSlot.toNat := by rw [hb]; rfl
  have hargSlot : b.argSlot.toNat = s.blk.argSlot.toNat := by rw [hb]; rfl
  rw [txNextRule, runSteps_advanceTurn e [] hargSlot hstep, hslot, ← hseed]
  exact complete_stored ..

end

/-- A command whose last step commits a pair. -/
theorem commit_end (e : Env) {s : State} {k : Nat} {f : Block → Turn} {r m : Ctr} (hf : f s.blk = commitTurn k r m s.blk) {sl : Slot}
    (hsl : sl = (s.blk.slot k).recordPair r m) : runSteps e [f] s =
      s.slotEnd .ok s.blk k sl [.nvWrite k sl.record] (some sl.record) := by
  rw [runSteps_commitTurn e [] hf, ← hsl]
  exact complete_stored ..

/-! The statements, with this hardware's seed 0 -/

theorem refusesBadSlot_of_withSlot {i : Instr} {f : Nat → Block → Turn} {rest : Rule}
    (hi : ruleOf Config.env i = withSlot f :: rest) : RefusesBadSlot i := fun s h => by
  obtain ⟨_, hf⟩ | ⟨hlt, _⟩ := withSlot_cases f s.blk
  · exact exec_of_finish hi hf
  · exact absurd h (Nat.not_le.2 hlt)

/-- How this hardware's slot command ends, when its end state is known. -/
theorem exec_slotEnd {i : Instr} {s : State} {code : ResultCode} {b : Block} {k : Nat} {sl : Slot} {reqs : List Request}
    {written : Option (List Byte)} (h : runSteps Config.env (ruleOf Config.env i) s = s.slotEnd code b k sl reqs written)
    (hk : k < 4) (hb : b.slots = s.blk.slots) (hw : ∀ rec ∈ written, rec.length = Config.nvRecBytes) :
    ∃ t, exec i s = .next t ∧ SlotCommandEnds Config.env s t code b k sl reqs written :=
  ⟨_, by rw [exec_eq_execWith, execWith, h], slotCommandEnds_slotEnd _ s code sl reqs hk hb hw⟩

theorem length_of_mem_record {sl : Slot} : ∀ rec ∈ some sl.record, rec.length = Config.nvRecBytes := by
  rintro _ ⟨⟩
  rfl

/-- Settles O36: whether the record is at the last restart counter decides the end. -/
theorem assocOpenLoadsRecord : Obligations.AssocOpenLoadsRecord := by
  refine ⟨rfl, refusesBadSlot_of_withSlot rfl, fun s k rec hk hlt hrec => ⟨fun h => ?_, fun h => ?_⟩⟩
  · obtain ⟨t, ht, hends⟩ := exec_slotEnd (i := .assocOpen) (assocOpen_end _ hk hlt hrec h rfl) hlt rfl length_of_mem_record
    exact ⟨t, _, ht, rfl, hends⟩
  · exact exec_slotEnd (i := .assocOpen) (assocOpen_end_exhausted _ hk hlt hrec h) hlt rfl nofun

theorem opened_zeroRecord (sl : Slot) : sl.opened zeroRecord 0 =
    { sl with rxLav := false, rxLr := 0, rxLm := 0, txRc := 1, txMc := 0, txExh := false, isOpen := true } := by
  have hrc : be24At zeroRecord 0 + 1 = 1 := by decide
  have hlav : (byteAt zeroRecord 3 != 0x00) = false := by decide
  have hlr : be24At zeroRecord 4 = 0 := by decide
  have hlm : be24At zeroRecord 7 = 0 := by decide
  rw [Slot.opened, Slot.restarted, hrc, hlav, hlr, hlm]

theorem record_opened_zeroRecord (sl : Slot) : (sl.opened zeroRecord 0).record =
    [0x00, 0x00, 0x01, 0x00, 0x00, 0x00, 0x00, 0x00, 0x00, 0x00] := by
  have hone : bytes24 1 = [0, 0, 1] := by decide
  have hzero : bytes24 0 = [0, 0, 0] := by decide
  simp only [opened_zeroRecord, Slot.record, hone, hzero]
  rfl

/-- Settles O37: ASSOC_OPEN on ten zero bytes, without the read. -/
theorem assocRekeyStartsAfresh : Obligations.AssocRekeyStartsAfresh := by
  refine ⟨rfl, refusesBadSlot_of_withSlot rfl, fun s k hk hlt => ?_⟩
  have hend := assocRekey_end Config.env hk hlt rfl
  rw [takeSeed_config, record_opened_zeroRecord, opened_zeroRecord] at hend
  exact exec_slotEnd (i := .assocRekey) hend hlt rfl (by rintro _ ⟨⟩; rfl)

theorem length_of_mem_advanceWrite {sl : Slot} {seed : Ctr} {rec : List Byte} (h : rec ∈ sl.advanceWrite seed) :
    rec.length = Config.nvRecBytes := by
  unfold Slot.advanceWrite at h
  split_ifs at h
  · exact length_of_mem_record rec h
  · cases h

theorem map_nvWrite_advanceWrite (sl : Slot) (k : Nat) : ((sl.advanceWrite 0).map (Request.nvWrite k)).toList =
    if sl.rollsOver then [.nvWrite k sl.advanced.record] else [] := by
  unfold Slot.advanceWrite
  split_ifs <;> rfl

/-- Settles O38: an exhausted slot refuses, any other hands out its pair and advances with seed 0. -/
theorem txNextHandsOutPairAndAdvances : Obligations.TxNextHandsOutPairAndAdvances := by
  refine ⟨rfl, refusesBadSlot_of_withOpenSlot rfl, refusesClosedSlot_of_withOpenSlot rfl, ?_⟩
  rintro s k rfl hlt ho
  refine ⟨fun hx => exec_of_finish (i := .txNext) rfl (txNextStep_of_exhausted _ hlt ho hx), fun hx => ?_⟩
  have hend := txNext_end Config.env rfl hlt ho hx rfl (seed := 0) rfl
  rw [takeSeed_config, ite_self, map_nvWrite_advanceWrite] at hend
  exact exec_slotEnd (i := .txNext) hend hlt rfl fun _ => length_of_mem_advanceWrite

theorem fresh_iff (sl : Slot) (r m : Ctr) : sl.fresh r m = true ↔
    sl.rxLav = false ∨ sl.rxLr.toNat < r.toNat ∨ sl.rxLr = r ∧ sl.rxLm.toNat < m.toNat := by
  simp [Slot.fresh, lexGt, BitVec.lt_def, eq_comm (a := r)]

/-- Settles O39: the rule's one step. -/
theorem rxCheckTestsFreshness : Obligations.RxCheckTestsFreshness := by
  refine ⟨rfl, refusesBadSlot_of_withOpenSlot rfl, refusesClosedSlot_of_withOpenSlot rfl, ?_⟩
  rintro s k rfl hlt ho
  simp only [← fresh_iff]
  exact exec_of_finish (i := .rxCheck) rfl (rxCheckStep_of_open hlt ho)

/-- Settles O40: the rule's one step finishes or commits. -/
theorem rxCommitRecordsFreshPair : Obligations.RxCommitRecordsFreshPair := by
  refine ⟨rfl, refusesBadSlot_of_withOpenSlot rfl, refusesClosedSlot_of_withOpenSlot rfl, ?_⟩
  rintro s k rfl hlt ho
  have hstep := rxCommitStep_of_open hlt ho
  refine ⟨fun hf => exec_of_finish (i := .rxCommit) rfl (hstep.trans (if_neg (by simp [hf]))), fun hf => ?_⟩
  obtain ⟨t, ht, hends⟩ :=
    exec_slotEnd (i := .rxCommit) (commit_end _ (hstep.trans (if_pos hf)) rfl) hlt rfl length_of_mem_record
  exact ⟨t, _, ht, rfl, hends⟩

/-- Settles O41: the rule's one step finishes or commits, and both end in `OK`. -/
theorem rxRatchetOnlyRaises : Obligations.RxRatchetOnlyRaises := by
  refine ⟨rfl, refusesBadSlot_of_withOpenSlot rfl, refusesClosedSlot_of_withOpenSlot rfl, ?_⟩
  rintro s k rfl hlt ho
  have hstep := rxRatchetStep_of_open hlt ho
  refine ⟨fun hlav hle => ?_, fun hgt => ?_⟩
  · have hf := (Slot.fresh_eq_false_iff _ _ _).2 ⟨hlav, hle⟩
    exact exec_of_finish (i := .rxRatchet) rfl (hstep.trans (if_neg (Bool.not_eq_true _ ▸ hf)))
  · have hf : (s.blk.slot s.blk.argSlot.toNat).fresh s.blk.argR Config.ctrMax = true := by
      simpa [Slot.fresh, Config.ctrMax] using hgt
    obtain ⟨t, ht, hends⟩ :=
      exec_slotEnd (i := .rxRatchet) (commit_end _ (hstep.trans (if_pos hf)) rfl) hlt rfl length_of_mem_record
    exact ⟨t, _, ht, rfl, hends⟩

end Sys2Proof.Machine
end

section
/-! SUPPORT. The invariant of the machine (O56): what a Host write can do, and that every Core step, answer, Host write and reset
keeps the memories canonical, the slots in order and the sequencer consistent. -/

namespace Sys2Proof.Machine

/-! Host writes -/

/-- The slots differ at most in key, node ID and role. -/
def Slot.SameCounters (sl sl' : Slot) : Prop :=
  ∃ key id role, sl' = { sl with key := key, nodeId := id, role := role }

theorem writeWindow_sameCounters (sl : Slot) (a : Nat) (v : Byte) : sl.SameCounters (sl.writeWindow a v) := by
  unfold Slot.writeWindow
  split
  · exact ⟨sl.key, sl.nodeId, _, rfl⟩
  split
  · exact ⟨sl.key, _, sl.role, rfl⟩
  split
  · exact ⟨sl.key, sl.nodeId, sl.role, rfl⟩
  · exact ⟨_, sl.nodeId, sl.role, rfl⟩

/-- The block has the slot file, the buffers and the `STG` of another. -/
structure Block.SameStores (b b' : Block) : Prop where
  slots : b'.slots = b.slots
  mem : b'.mem = b.mem
  stg : b'.stg = b.stg

theorem writeControl_sameStores (b : Block) (a : Nat) (v : Byte) : b.SameStores (b.writeControl a v) := by
  unfold Block.writeControl
  split <;> exact ⟨rfl, rfl, rfl⟩

/-- What a write while IDLE can do (20_memory R82): start a command, write a buffer byte, write the identity of a slot, or
change registers only. -/
inductive State.Written (s : State) : State → Prop
  | command (v : Byte) : s.Written (s.startCommand v)
  | buffer (a : Nat) (v : Byte) : s.Written { s with blk := { s.blk with mem := s.blk.mem.set a v } }
  | slot {k : Nat} {sl : Slot} (h : (s.blk.slot k).SameCounters sl) : s.Written { s with blk := s.blk.setSlot k sl }
  | registers {b : Block} (done werr : Bool) (sel : Byte) (h : s.blk.SameStores b) :
      s.Written { s with blk := b, done := done, werr := werr, assocSel := sel }

theorem writeLocation_written (s : State) (a : Nat) (v : Byte) : s.Written (s.writeLocation a v) := by
  have registers {b : Block} (h : s.blk.SameStores b) : s.Written { s with blk := b } :=
    .registers s.done s.werr s.assocSel h
  have unchanged : s.Written s := registers ⟨rfl, rfl, rfl⟩
  have window : s.Written (s.writeWindow a v) :=
    iteInduction (fun _ => .slot (writeWindow_sameCounters _ a v)) fun _ => unchanged
  refine iteInduction (fun _ => .buffer a v) fun _ => iteInduction (fun _ => .command v) fun _ => ?_
  refine iteInduction (fun _ => .registers _ _ s.assocSel ⟨rfl, rfl, rfl⟩) fun _ => ?_
  refine iteInduction (fun _ => registers (writeControl_sameStores s.blk a v)) fun _ => ?_
  refine iteInduction (fun _ => registers ⟨rfl, rfl, rfl⟩) fun _ => ?_
  refine iteInduction (fun _ => registers ⟨rfl, rfl, rfl⟩) fun _ => ?_
  refine iteInduction (fun _ => registers ⟨rfl, rfl, rfl⟩) fun _ => iteInduction (fun _ => unchanged) fun _ => ?_
  refine iteInduction (fun _ => .registers s.done s.werr v ⟨rfl, rfl, rfl⟩) fun _ => ?_
  exact iteInduction (fun _ => window) fun _ => unchanged

/-! The steps of the secure commands -/

/-- What SEC_ENCODE puts into `STG`: the nonce and the padded body (44_secureframe R286). -/
def Block.toSeal (e : Env) (b : Block) : Staging :=
  ⟨sendNonce e (b.slot b.argSlot.toNat), b.paddedBody e, [], false⟩

section
variable (e : Env) (b : Block)

theorem secEncodeStart_cases : (∃ c, secEncodeStart e b = .finish c b) ∨
    b.CanSend ∧ secEncodeStart e b = advanceTurn e (b.withStg (b.toSeal e)) := by
  obtain ⟨_, h⟩ | ⟨_, _, h⟩ | ⟨hk, ho, h⟩ := withOpenSlot_cases _ b
  · exact .inl ⟨_, h⟩
  · exact .inl ⟨_, h⟩
  · change secEncodeStart e b = _ at h
    split_ifs at h with _ hx
    · exact .inl ⟨_, h⟩
    · exact .inl ⟨_, h⟩
    · exact .inr ⟨⟨hk, ho, by simpa using hx⟩, h⟩

theorem secDecodeStart_cases : (∃ c, secDecodeStart e b = .finish c b) ∨
    b.CanRecord (trailerR (b.fb e)) (trailerM (b.fb e)) ∧
      ∃ q g, (∀ k rec, q ≠ .nvWrite k rec) ∧ secDecodeStart e b = .ask q (b.withStg g) := by
  obtain ⟨_, h⟩ | ⟨_, _, h⟩ | ⟨hk, ho, h⟩ := withOpenSlot_cases _ b
  · exact .inl ⟨_, h⟩
  · exact .inl ⟨_, h⟩
  · change secDecodeStart e b = _ at h
    dsimp only at h
    split_ifs at h with _ _ hf
    · exact .inl ⟨_, h⟩
    · exact .inl ⟨_, h⟩
    · exact .inl ⟨_, h⟩
    · refine .inr ⟨⟨hk, ho, by simpa using hf⟩, _, _, ?_, h⟩
      rintro _ _ ⟨⟩

theorem secDecodeCommit_cases : (∃ c, secDecodeCommit e b = .finish c b) ∨
    ∃ g, secDecodeCommit e b =
      commitTurn b.argSlot.toNat (trailerR (b.fb e)) (trailerM (b.fb e)) (b.withStg g) := by
  unfold secDecodeCommit
  split_ifs
  · exact .inl ⟨_, rfl⟩
  · split
    · exact .inl ⟨_, rfl⟩
    · exact .inr ⟨_, rfl⟩

end

/-! The block's part of the invariant -/

/-- Every slot is in order, also those past the slot file, which read as after reset. -/
def Block.SlotsInv (b : Block) : Prop := ∀ k, (b.slot k).Inv

/-- What the invariant says of the block: canonical buffers, and every slot in order. -/
structure Block.Inv (b : Block) : Prop where
  mem : b.mem.wf = true
  slots : b.SlotsInv

theorem lasting_inv : Lasting Block.Inv := fun _ _ _ h => ⟨h.mem, h.slots⟩

theorem Slot.inv_reset : Slot.reset.Inv := ⟨fun _ => rfl, nofun⟩

theorem slot_of_ge (b : Block) {k : Nat} (h : Config.pAssoc ≤ k) : b.slot k = Slot.reset := by
  rw [Block.slot, Vector.getElem?_eq_none h, Option.getD_none]

theorem State.Inv.block {s : State} (h : s.Inv) : s.blk.Inv := by
  refine ⟨h.mem, fun k => ?_⟩
  rcases Nat.lt_or_ge k Config.pAssoc with hk | hk
  · exact h.slots k hk
  · rw [slot_of_ge _ hk]; exact Slot.inv_reset

theorem State.inv_of_block {s : State} (hb : s.blk.Inv) (hnv : s.nv.wf = true) (hp : s.phaseInv) : s.Inv :=
  ⟨hb.mem, hnv, fun k _ => hb.slots k, hp⟩

section
variable {b b' : Block}

theorem Block.SlotsInv.of_slots (h : b.SlotsInv) (hb : b'.slots = b.slots) : b'.SlotsInv := fun k => by
  rw [Block.slot, hb]; exact h k

theorem Block.SlotsInv.setSlot (h : b.SlotsInv) {k : Nat} {sl : Slot} (hsl : sl.Inv) :
    (b.setSlot k sl).SlotsInv := fun j => by
  obtain he | ⟨_, he⟩ := slot_setSlot_cases b k sl j
  · rw [he]; exact h j
  · rw [he]; exact hsl

/-- What the Host may write of a slot is not in its invariant. -/
theorem Slot.Inv.of_sameCounters {sl sl' : Slot} (h : sl.Inv) (hs : sl.SameCounters sl') : sl'.Inv := by
  obtain ⟨_, _, _, rfl⟩ := hs
  exact h

/-- `advance` runs on an open slot only, and marks it exhausted at the last pair only (43_replayguard R240). -/
theorem Block.SlotsInv.advance (e : Env) (h : b.SlotsInv) {k : Nat} (ho : (b.slot k).isOpen = true)
    (hx : (b.slot k).txExh = false) : (advance e k b).1.SlotsInv := by
  have notExhausted {sl : Slot} (hsl : sl.txExh = false) : sl.Inv := ⟨fun _ => hsl, fun h => by rw [hsl] at h; cases h⟩
  obtain ⟨_, ha⟩ | ⟨_, _, ha⟩ | ⟨hm, hr, ha⟩ := advance_cases e k b
  · rw [ha]; exact h.setSlot (notExhausted hx)
  · rw [ha]; exact (h.of_slots (takeSeed_slots e b)).setSlot (notExhausted hx)
  · rw [ha]
    refine h.setSlot ⟨fun hc => ?_, fun _ => ⟨?_, ?_⟩⟩
    · cases ho.symm.trans hc
    · exact not_not.1 (mt (lt_ctrMax_iff _).2 hr)
    · exact not_not.1 (mt (lt_ctrMax_iff _).2 hm)

theorem Block.SlotsInv.commitTurn (h : b.SlotsInv) (k : Nat) (r m : Ctr) : (commitTurn k r m b).blk.SlotsInv :=
  h.setSlot (h k)

/-! The steps that write the slot file -/

theorem openLoad_slotsInv (e : Env) (h : b.SlotsInv) : (openLoad e b).blk.SlotsInv := by
  unfold openLoad
  dsimp only
  split_ifs
  · exact h.setSlot ⟨nofun, fun _ => ⟨rfl, rfl⟩⟩
  · exact (h.of_slots (takeSeed_slots e b)).setSlot ⟨fun _ => rfl, nofun⟩

theorem openDone_slotsInv (h : b.SlotsInv) : (openDone b).blk.SlotsInv := h.setSlot ⟨nofun, (h _).2⟩

theorem rekeyStart_slotsInv (e : Env) (h : b.SlotsInv) : (rekeyStart e b).blk.SlotsInv :=
  withSlot_blk h ((h.of_slots (takeSeed_slots e b)).setSlot ⟨fun _ => rfl, nofun⟩)

theorem advanceTurn_slotsInv (e : Env) (h : b.SlotsInv) (hs : b.CanSend) : (advanceTurn e b).blk.SlotsInv := by
  rw [advanceTurn, Turn.blk_askIf]
  exact h.advance e hs.isOpen hs.notExhausted

theorem txNextStep_slotsInv (e : Env) (h : b.SlotsInv) : (txNextStep e b).blk.SlotsInv := by
  obtain ⟨_, _, he⟩ | ⟨⟨hk, ho, hx⟩, he⟩ := txNextStep_cases e b
  · rw [he]; exact h
  · rw [he]; exact advanceTurn_slotsInv e (b := b.pairTaken _) h ⟨hk, ho, hx⟩

theorem rxCommitStep_slotsInv (h : b.SlotsInv) : (rxCommitStep b).blk.SlotsInv := by
  obtain ⟨_, he⟩ | ⟨_, he⟩ := rxCommitStep_cases b
  · rw [he]; exact h
  · rw [he]; exact h.commitTurn _ _ _

theorem rxRatchetStep_slotsInv (h : b.SlotsInv) : (rxRatchetStep b).blk.SlotsInv := by
  obtain ⟨_, he⟩ | ⟨_, he⟩ := rxRatchetStep_cases b
  · rw [he]; exact h
  · rw [he]; exact h.commitTurn _ _ _

theorem secEncodeStart_slotsInv (e : Env) (h : b.SlotsInv) : (secEncodeStart e b).blk.SlotsInv := by
  obtain ⟨_, he⟩ | ⟨⟨hk, ho, hx⟩, he⟩ := secEncodeStart_cases e b
  · rw [he]; exact h
  · rw [he]; exact advanceTurn_slotsInv e (b := b.withStg _) h ⟨hk, ho, hx⟩

theorem secDecodeStart_slotsInv (e : Env) (h : b.SlotsInv) : (secDecodeStart e b).blk.SlotsInv := by
  obtain ⟨_, he⟩ | ⟨_, _, _, _, he⟩ := secDecodeStart_cases e b
  · rw [he]; exact h
  · rw [he]; exact h

theorem secDecodeCommit_slotsInv (e : Env) (h : b.SlotsInv) : (secDecodeCommit e b).blk.SlotsInv := by
  obtain ⟨_, he⟩ | ⟨_, he⟩ := secDecodeCommit_cases e b
  · rw [he]; exact h
  · rw [he]; exact Block.SlotsInv.commitTurn (b := b.withStg _) h _ _ _

theorem Turn.Frame.blk {i : Instr} {t : Turn} (h : t.Frame i b) : b.Frame i t.blk := by
  cases t with
  | finish c b' => exact h
  | go b' => exact h
  | ask q b' =>
    obtain ⟨hb, _⟩ := h
    exact hb

end

/-! Every step -/

/-- Every step of a command leaves the slots in order. -/
theorem ruleOf_step_slotsInv (e : Env) (i : Instr) :
    (ruleOf e i).Forall fun f => ∀ b : Block, b.SlotsInv → (f b).blk.SlotsInv := by
  by_cases hi : i ∈ slotCommands
  case neg => exact (ruleOf_step_frame e i).imp fun f hf b hb => hb.of_slots ((hf b).blk.slots hi)
  cases i
  case assocOpen => exact ⟨fun b hb => withSlot_blk hb hb, fun _ => openLoad_slotsInv e, fun _ => openDone_slotsInv⟩
  case assocRekey => exact ⟨fun _ => rekeyStart_slotsInv e, fun _ => openDone_slotsInv⟩
  case txNext => exact fun _ => txNextStep_slotsInv e
  case rxCommit => exact fun _ => rxCommitStep_slotsInv
  case rxRatchet => exact fun _ => rxRatchetStep_slotsInv
  case secEncode =>
    exact ⟨fun _ => secEncodeStart_slotsInv e, fun _ hb => hb, fun b hb => hb.of_slots (secEncodeFinish_slots b)⟩
  case secDecode => exact ⟨fun _ => secDecodeStart_slotsInv e, fun _ => secDecodeCommit_slotsInv e, fun _ hb => hb⟩
  all_goals exact absurd hi (by decide)

section
variable {b : Block} (h : b.mem.wf = true)
include h

theorem hdrEncodeStep_memWf : (hdrEncodeStep b).blk.mem.wf = true := by
  unfold hdrEncodeStep
  dsimp only
  split_ifs
  case neg => exact Memory.wf_writeBytes h _ _
  all_goals exact h

theorem crcAppendStep_memWf (e : Env) : (crcAppendStep e b).blk.mem.wf = true := by
  unfold crcAppendStep
  split_ifs
  · exact h
  · exact Memory.wf_writeBytes h _ _

theorem secEncodeStart_memWf (e : Env) : (secEncodeStart e b).blk.mem.wf = true := by
  obtain ⟨_, he⟩ | ⟨_, he⟩ := secEncodeStart_cases e b
  · rw [he]; exact h
  · rw [he, advanceTurn, Turn.blk_askIf, advance_mem]; exact h

theorem secEncodeFinish_memWf : (secEncodeFinish b).blk.mem.wf = true := by
  unfold secEncodeFinish
  dsimp only
  split_ifs
  · exact h
  · exact Memory.wf_writeBytes h _ _

end

/-- Every step of a command leaves the buffers in canonical form: it writes byte sequences or nothing. -/
theorem ruleOf_step_memWf (e : Env) (i : Instr) :
    (ruleOf e i).Forall fun f => ∀ b : Block, b.mem.wf = true → (f b).blk.mem.wf = true := by
  by_cases hi : i ∈ bufferCommands
  case neg => exact (ruleOf_step_frame e i).imp fun f hf b hb => by rwa [(hf b).blk.mem hi]
  cases i
  case hdrEncode => exact fun _ => hdrEncodeStep_memWf
  case crcAppend => exact fun _ hb => crcAppendStep_memWf hb e
  case secEncode => exact ⟨fun _ hb => secEncodeStart_memWf hb e, fun _ hb => hb, fun _ => secEncodeFinish_memWf⟩
  case secDecode =>
    exact ⟨fun b hb => by rwa [secDecodeStart_mem], fun b hb => by rwa [secDecodeCommit_mem],
      fun b hb => Memory.wf_writeBytes hb _ _⟩
  all_goals exact absurd hi (by decide)

/-- Every step of a rule that an opcode byte runs keeps the block's part of the invariant. -/
theorem opcodeRule_step_inv (e : Env) (op : Byte) {f : Block → Turn} (hf : f ∈ opcodeRule e op) {b : Block} (hb : b.Inv) :
    (f b).blk.Inv := by
  obtain ⟨hm, hs⟩ := hb
  unfold opcodeRule at hf
  split at hf
  next i _ =>
    exact ⟨List.forall_iff_forall_mem.1 (ruleOf_step_memWf e i) f hf b hm,
      List.forall_iff_forall_mem.1 (ruleOf_step_slotsInv e i) f hf b hs⟩
  next =>
    obtain rfl := List.mem_singleton.1 hf
    exact ⟨hm, hs⟩

/-! Events -/

/-- An answer keeps the memories canonical and the slots in order, and changes no register of the sequencer. -/
theorem answer_inv (e : Env) {s : State} (q : Request) (hb : s.blk.Inv) (hnv : s.nv.wf = true) :
    (answer e s q).blk.Inv ∧ (answer e s q).nv.wf = true ∧ (answer e s q).cmd = s.cmd ∧ (answer e s q).done = s.done := by
  obtain ⟨k, rec, _, ha⟩ | ⟨_, g, d, ha⟩ := answer_cases e s q
  · rw [ha]; exact ⟨hb, Memory.wf_writeBytes hnv _ _, rfl, rfl⟩
  · rw [ha]; exact ⟨lasting_inv _ g d hb, hnv, rfl, rfl⟩

theorem complete_inv {s : State} (code : ResultCode) {b : Block} (hb : b.Inv) (hnv : s.nv.wf = true) :
    (s.complete code b).Inv :=
  State.inv_of_block (lasting_inv b _ b.draws hb) hnv rfl

section
variable {e : Env} {rule : Rule} (h : ∀ f ∈ rule, ∀ b : Block, b.Inv → (f b).blk.Inv)
include h

/-- A command run to its end leaves the invariant. -/
theorem runSteps_inv {s : State} (hb : s.blk.Inv) (hnv : s.nv.wf = true) : (runSteps e rule s).Inv := by
  induction rule generalizing s with
  | nil => exact complete_inv .ok hb hnv
  | cons f rest ih =>
    have hstep := h f (.head _) s.blk hb
    have hrest {t : State} := ih (fun g hg => h g (.tail _ hg)) (s := t)
    cases hf : f s.blk with
    | finish c b => rw [hf] at hstep; rw [runSteps_finish e hf]; exact complete_inv c hstep hnv
    | go b => rw [hf] at hstep; rw [runSteps_go e hf]; exact hrest hstep hnv
    | ask q b =>
      rw [hf] at hstep; rw [runSteps_ask e hf]
      obtain ⟨hb', hnv', _⟩ := answer_inv e (s := s.issue q b) q hstep hnv
      exact hrest hb' hnv'

/-- One Core step keeps the invariant: the request it issues is the last one issued. -/
theorem stepRule_inv {s : State} {op : Byte} {n : Nat} (hs : s.Inv) (hp : s.phase = .busy op n none) :
    (stepRule rule op n s).Inv := by
  obtain ⟨hcmd, hdone, _⟩ : s.cmd = op ∧ s.done = false ∧ _ := by simpa only [State.phaseInv, hp] using hs.phase
  unfold stepRule
  cases hf : rule[n]? with
  | none => exact complete_inv .ok hs.block hs.nv
  | some f =>
    have hstep := h f (List.mem_of_getElem? hf) s.blk hs.block
    cases ht : f s.blk with
    | finish c b => rw [ht] at hstep; simpa only [ht] using complete_inv (b := b) c hstep hs.nv
    | go b =>
      rw [ht] at hstep
      simpa only [ht] using State.inv_of_block (s := { s with blk := b, phase := .busy op (n + 1) none }) hstep hs.nv
        ⟨hcmd, hdone, nofun⟩
    | ask q b =>
      rw [ht] at hstep
      simpa only [ht] using State.inv_of_block (s := { s.issue q b with phase := .busy op (n + 1) (some q) }) hstep hs.nv
        ⟨hcmd, hdone, by rintro _ ⟨⟩; simp⟩

end

section
variable {s : State} (h : s.Inv)
include h

theorem coreStep_inv (e : Env) : (coreStep e s).Inv := by
  unfold coreStep
  split
  next op n hp => exact stepRule_inv (fun _ hf _ => opcodeRule_step_inv e op hf) h hp
  next => exact h

theorem agentAnswer_inv (e : Env) (nv : Bool) : (agentAnswer e nv s).Inv := by
  unfold agentAnswer
  split
  next op n q hp =>
    obtain ⟨hcmd, hdone, _⟩ : s.cmd = op ∧ s.done = false ∧ _ := by simpa only [State.phaseInv, hp] using h.phase
    obtain ⟨hb, hnv, hcmd', hdone'⟩ := answer_inv e q h.block h.nv
    split_ifs
    · exact State.inv_of_block hb hnv ⟨hcmd'.trans hcmd, hdone'.trans hdone, nofun⟩
    · exact h
  next => exact h

theorem resume_inv (e : Env) : (resume e s).Inv := by
  have hrest (op : Byte) (n : Nat) : ∀ f ∈ (opcodeRule e op).drop n, ∀ b : Block, b.Inv → (f b).blk.Inv :=
    fun _ hf _ => opcodeRule_step_inv e op (List.mem_of_mem_drop hf)
  unfold resume
  split
  next => exact h
  next op n hp => exact runSteps_inv (hrest op n) h.block h.nv
  next op n q hp =>
    obtain ⟨hb, hnv, _⟩ := answer_inv e q h.block h.nv
    exact runSteps_inv (hrest op n) hb hnv

theorem runCommand_inv : ∃ t, runCommand Config.env exec s = .next t ∧ t.Inv := by
  unfold runCommand
  split
  next op hp =>
    split
    next i hd =>
      refine ⟨_, exec_eq_execWith i s, runSteps_inv (fun _ hf _ => ?_) h.block h.nv⟩
      exact opcodeRule_step_inv Config.env op (by rwa [opcodeRule, hd])
    next _ hd =>
      refine ⟨_, rfl, runSteps_inv (fun _ hf _ => ?_) h.block h.nv⟩
      exact opcodeRule_step_inv Config.env op (by rwa [opcodeRule, hd])
  next => exact ⟨_, rfl, resume_inv h Config.env⟩

theorem hostWrite_inv (a : HostAddr) (v : Byte) : (s.hostWrite a v).Inv := by
  have hb := h.block
  cases hp : s.phase with
  | busy op n req =>
    rw [hostWrite_busy hp]
    exact State.inv_of_block hb h.nv h.phase
  | idle =>
    have hstg : s.blk.stg = Staging.empty := by simpa only [State.phaseInv, hp] using h.phase
    have idle {t : State} (ht : t.blk.Inv) (htnv : t.nv = s.nv) (htp : t.phase = s.phase) (hts : t.blk.stg = s.blk.stg) :
        t.Inv :=
      State.inv_of_block ht (htnv ▸ h.nv) (by simpa only [State.phaseInv, htp, hp] using hts.trans hstg)
    rw [hostWrite_idle hp]
    have hw := writeLocation_written s a.toNat v
    generalize s.writeLocation a.toNat v = t at hw
    cases hw
    case command => exact State.inv_of_block hb h.nv ⟨rfl, rfl, nofun⟩
    case buffer => exact idle ⟨Memory.wf_set hb.mem _ _, hb.slots⟩ rfl rfl rfl
    case slot k sl hsl => exact idle ⟨hb.mem, hb.slots.setSlot ((hb.slots k).of_sameCounters hsl)⟩ rfl rfl rfl
    case registers hsame => exact idle ⟨hsame.mem.symm ▸ hb.mem, hb.slots.of_slots hsame.slots⟩ rfl rfl hsame.stg

theorem powerOn_inv (landed : Bool) : (s.powerOn landed).Inv := by
  refine State.inv_of_block ⟨rfl, fun k => ?_⟩ ?_ rfl
  · exact (slot_reset k).symm ▸ Slot.inv_reset
  · unfold State.powerOn
    dsimp only
    split
    · split_ifs
      · exact Memory.wf_writeBytes h.nv _ _
      · exact h.nv
    · exact h.nv

theorem provision_inv (k : Nat) (rec : List Byte) : (provision k rec s).Inv := by
  unfold provision
  split_ifs
  · exact State.inv_of_block h.block (Memory.wf_writeBytes h.nv _ _) h.phase
  · exact h

/-- What an event does keeps the invariant. -/
theorem handleEvent_inv (ev : Event) : ∃ t, handleEvent Config.env exec ev s = .next t ∧ t.Inv := by
  cases ev with
  | read a => exact ⟨_, rfl, State.inv_of_block h.block h.nv h.phase⟩
  | write a v => exact ⟨_, rfl, hostWrite_inv h a v⟩
  | core => exact ⟨_, rfl, coreStep_inv h Config.env⟩
  | nvAnswer => exact ⟨_, rfl, agentAnswer_inv h Config.env true⟩
  | gcmAnswer => exact ⟨_, rfl, agentAnswer_inv h Config.env false⟩
  | run => exact runCommand_inv h
  | reset landed => exact ⟨_, rfl, powerOn_inv h landed⟩
  | provision k rec => exact ⟨_, rfl, provision_inv h k rec⟩

end

/-- Settles O56: event by event; the schedule is no part of the invariant. -/
theorem stepKeepsInvariant : Obligations.StepKeepsInvariant := by
  intro s h
  unfold step stepWith
  cases s.inputs with
  | nil => exact runCommand_inv h
  | cons ev rest => exact handleEvent_inv (s := { s with inputs := rest }) (State.inv_of_block h.block h.nv h.phase) ev

end Sys2Proof.Machine
end

section
/-! SUPPORT. The life of a key on a slot (43_replayguard R242, R250, R251): what a command can do to a slot and its NV record, as
one list of cases; what every action of a life keeps; and the statements that follow (O43, O45, O46, O47). -/

namespace Sys2Proof.Machine

/-! What a command can do to a slot and its record -/

/-- From a slot and its NV record to those after a command: nothing changed, or the slot was opened, handed out a pair or
recorded one. ASSOC_REKEY of the slot is possible only where `rekey` holds. -/
inductive SlotChange (rekey : Prop) (sl : Slot) (rec : List Byte) : Slot → List Byte → Prop
  | kept : SlotChange rekey sl rec sl rec
  | opened (seed : Ctr) (h : be24At rec 0 ≠ Config.ctrMax) :
      SlotChange rekey sl rec (sl.opened rec seed) (sl.opened rec seed).record
  | openedExhausted (h : be24At rec 0 = Config.ctrMax) : SlotChange rekey sl rec (sl.openedExhausted rec) rec
  | rekeyed (seed : Ctr) (h : rekey) :
      SlotChange rekey sl rec (sl.opened zeroRecord seed) (sl.opened zeroRecord seed).record
  | advanced (seed : Ctr) (ho : sl.isOpen = true) (hx : sl.txExh = false) :
      SlotChange rekey sl rec (sl.advancedBy seed) ((sl.advanceWrite seed).getD rec)
  | recorded (r m : Ctr) (ho : sl.isOpen = true) (hf : sl.fresh r m = true) :
      SlotChange rekey sl rec (sl.recordPair r m) (sl.recordPair r m).record

/-- What happens to slot `k` and its record from `s` to `t` is a change that a command can make. -/
def State.Changes (e : Env) (rekey : Prop) (k : Nat) (s t : State) : Prop :=
  SlotChange rekey (s.blk.slot k) (nvRecord e s.nv k) (t.blk.slot k) (nvRecord e t.nv k)

section
variable {e : Env} {rekey : Prop} {k : Nat} {s t : State}

theorem State.Changes.of_same (hslot : t.blk.slot k = s.blk.slot k) (hrec : nvRecord e t.nv k = nvRecord e s.nv k) :
    s.Changes e rekey k t := by
  rw [State.Changes, hslot, hrec]
  exact .kept

/-- The slot and the record after they are written. -/
theorem slot_and_record_of_stored {sl : Slot} {written : Option (List Byte)} (b b' : Block) (hk : k < Config.pAssoc)
    (hw : ∀ rec ∈ written, rec.length = Config.nvRecBytes) (hslots : t.blk.slots = (b.setSlot k sl).slots)
    (hnv : t.nv = (s.stored k b' written).nv) :
    t.blk.slot k = sl ∧ nvRecord e t.nv k = written.getD (nvRecord e s.nv k) := by
  refine ⟨?_, ?_⟩
  · rw [Block.slot, hslots, ← Block.slot, slot_setSlot_same b hk]
  · rw [hnv, nvRecord_stored e s k b' written hw, if_pos rfl]

theorem State.Changes.of_stored {sl : Slot} {written : Option (List Byte)} (b b' : Block) (hk : k < Config.pAssoc)
    (h : SlotChange rekey (s.blk.slot k) (nvRecord e s.nv k) sl (written.getD (nvRecord e s.nv k)))
    (hw : ∀ rec ∈ written, rec.length = Config.nvRecBytes)
    (hslots : t.blk.slots = (b.setSlot k sl).slots) (hnv : t.nv = (s.stored k b' written).nv) : s.Changes e rekey k t := by
  obtain ⟨hslot, hrec⟩ := slot_and_record_of_stored (e := e) b b' hk hw hslots hnv
  rw [State.Changes, hslot, hrec]
  exact h

/-- From `s` to `t` slot `k` hands out the pair `p`: its next one, and advances. -/
structure State.HandsOut (e : Env) (k : Nat) (s t : State) (p : Ctr × Ctr) : Prop where
  isOpen : (s.blk.slot k).isOpen = true
  notExhausted : (s.blk.slot k).txExh = false
  pair : p = ((s.blk.slot k).txRc, (s.blk.slot k).txMc)
  advanced : ∃ seed, t.blk.slot k = (s.blk.slot k).advancedBy seed ∧
    nvRecord e t.nv k = ((s.blk.slot k).advanceWrite seed).getD (nvRecord e s.nv k)

theorem State.HandsOut.changes {p : Ctr × Ctr} (h : s.HandsOut e k t p) : s.Changes e rekey k t := by
  obtain ⟨ho, hx, _, seed, hslot, hrec⟩ := h
  rw [State.Changes, hslot, hrec]
  exact .advanced seed ho hx

end

/-! TX_NEXT and SEC_ENCODE -/

@[simp] theorem takeSeed_argR (e : Env) (b : Block) : (takeSeed e b).2.argR = b.argR := by
  obtain ⟨_, h⟩ | ⟨_, h⟩ := takeSeed_cases e b <;> rw [h]

@[simp] theorem takeSeed_argM (e : Env) (b : Block) : (takeSeed e b).2.argM = b.argM := by
  obtain ⟨_, h⟩ | ⟨_, h⟩ := takeSeed_cases e b <;> rw [h]

/-- TX_NEXT refuses, or hands out the pair it leaves in `ARG_R` and `ARG_M`. -/
theorem runSteps_txNext_cases (e : Env) (s : State) :
    (∃ c, c ≠ .ok ∧ runSteps e (txNextRule e) s = s.complete c s.blk) ∨
    s.HandsOut e s.blk.argSlot.toNat (runSteps e (txNextRule e) s)
      ((runSteps e (txNextRule e) s).blk.argR, (runSteps e (txNextRule e) s).blk.argM) := by
  obtain ⟨c, hc, hf⟩ | ⟨⟨hk, ho, hx⟩, _⟩ := txNextStep_cases e s.blk
  · exact .inl ⟨c, hc, runSteps_finish e hf⟩
  · rw [txNext_end e rfl hk ho hx rfl rfl]
    refine .inr ⟨ho, hx, ?_, (takeSeed e (s.blk.pairTaken s.blk.argSlot.toNat)).1, ?_⟩
    · simp only [State.slotEnd, Completed, Block.setSlot_argR, Block.setSlot_argM, apply_ite Block.argR, apply_ite Block.argM,
        takeSeed_argR, takeSeed_argM, ite_self]
      rfl
    · exact slot_and_record_of_stored _ s.blk hk (fun _ => length_of_mem_advanceWrite) rfl rfl

/-- SEC_ENCODE's last step finishes, and leaves the slot file. -/
theorem secEncodeFinish_cases (b : Block) : ∃ c b', secEncodeFinish b = .finish c b' ∧ b'.slots = b.slots := by
  unfold secEncodeFinish
  dsimp only
  split_ifs
  · exact ⟨_, _, rfl, rfl⟩
  · exact ⟨_, _, rfl, rfl⟩

/-- The rest of SEC_ENCODE after its nonce is taken: the slots and the records stay, and the nonce goes to the GCM engine. -/
theorem runSteps_seal (e : Env) (s : State) :
    (runSteps e [secEncodeSeal, secEncodeFinish] s).blk.slots = s.blk.slots ∧
    (runSteps e [secEncodeSeal, secEncodeFinish] s).nv = s.nv ∧
    ∃ key ad pt, (runSteps e [secEncodeSeal, secEncodeFinish] s).requests =
      s.requests ++ [.gcmEnc key s.blk.stg.nonce ad pt] := by
  obtain ⟨key, ad, pt, hseal⟩ : ∃ key ad pt, secEncodeSeal s.blk = .ask (.gcmEnc key s.blk.stg.nonce ad pt) s.blk :=
    ⟨_, _, _, rfl⟩
  obtain ⟨_, _, hq, _⟩ | ⟨_, g, d, ha⟩ := answer_cases e (s.issue (.gcmEnc key s.blk.stg.nonce ad pt) s.blk)
    (.gcmEnc key s.blk.stg.nonce ad pt)
  · cases hq
  · obtain ⟨c, b, hfinish, hb⟩ := secEncodeFinish_cases { s.blk with stg := g, draws := d }
    rw [runSteps_ask e hseal, ha, runSteps_finish e hfinish]
    exact ⟨hb, rfl, key, ad, pt, rfl⟩

theorem nonceR_nonce (force : Bool) (id6 : BitVec 48) (r m : Ctr) (dir : Direction) :
    nonceR (nonce force id6 r m dir) = r := by
  apply BitVec.eq_of_getLsbD_eq
  intro i hi
  rw [nonceR, nonce, BitVec.getLsbD_extractLsb', BitVec.getLsbD_append, BitVec.getLsbD_append]
  simp [hi]

theorem nonceM_nonce (force : Bool) (id6 : BitVec 48) (r m : Ctr) (dir : Direction) :
    nonceM (nonce force id6 r m dir) = m :=
  BitVec.extractLsb'_append_eq_right

/-- A roll-over's NV write comes before the request to the engine. -/
theorem encryptedPair_after_nvWrite (k : Nat) (written : Option (List Byte)) (key : BitVec 128) (iv : BitVec 96)
    (ad pt : List Byte) : encryptedPair ((written.map (.nvWrite k)).toList ++ [.gcmEnc key iv ad pt]) =
      some (nonceR iv, nonceM iv) := by
  cases written <;> rfl

/-- SEC_ENCODE refuses, or hands out the pair in the nonce it gives the GCM engine. -/
theorem runSteps_secEncode_cases (e : Env) (s : State) :
    (∃ c, runSteps e (secEncodeRule e) s = s.complete c s.blk) ∨
    ∃ p reqs, s.HandsOut e s.blk.argSlot.toNat (runSteps e (secEncodeRule e) s) p ∧
      (runSteps e (secEncodeRule e) s).requests = s.requests ++ reqs ∧ encryptedPair reqs = some p := by
  obtain ⟨c, hf⟩ | ⟨⟨hk, ho, hx⟩, hf⟩ := secEncodeStart_cases e s.blk
  · exact .inl ⟨c, runSteps_finish e hf⟩
  · rw [secEncodeRule, runSteps_advanceTurn e _ (congrArg BitVec.toNat (Block.withStg_argSlot s.blk _)) hf, Block.withStg_slot]
    obtain ⟨hslots, hnv, key, ad, pt, hreqs⟩ := runSteps_seal e _
    refine .inr ⟨_, _, ⟨ho, hx, rfl, (takeSeed e (s.blk.withStg (s.blk.toSeal e))).1, ?_⟩,
      hreqs.trans (List.append_assoc ..), ?_⟩
    · exact slot_and_record_of_stored _ _ hk (fun _ => length_of_mem_advanceWrite) hslots hnv
    · rw [encryptedPair_after_nvWrite]
      simp only [State.stored, Block.setSlot_stg, apply_ite Block.stg, takeSeed_stg, ite_self, Block.withStg_stg, Block.toSeal,
        sendNonce, nonceR_nonce, nonceM_nonce]

/-- The rest of SEC_DECODE after the engine's answer, the slots and the buffers being as in `s`: nothing, or the frame's pair is
recorded. -/
theorem runSteps_open (e : Env) {rekey : Prop} {k : Nat} {s : State} (g : Staging) (d : Nat) (reqs : List Request)
    (hk : s.blk.argSlot.toNat = k) (hr : s.blk.CanRecord (trailerR (s.blk.fb e)) (trailerM (s.blk.fb e))) :
    s.Changes e rekey k (runSteps e [secDecodeCommit e, secDecodeFinish e]
      { s with blk := { s.blk with stg := g, draws := d }, requests := reqs }) := by
  subst hk
  obtain ⟨_, hf⟩ | ⟨g', hf⟩ := secDecodeCommit_cases e { s.blk with stg := g, draws := d }
  · rw [runSteps_finish e hf]
    exact .of_same rfl rfl
  · rw [runSteps_commitTurn e _ hf, runSteps_finish e (f := secDecodeFinish e) rfl]
    exact .of_stored s.blk s.blk hr.lt (.recorded _ _ hr.isOpen hr.fresh) length_of_mem_record rfl rfl

/-- What a command does to a slot and its NV record. -/
theorem runSteps_ruleOf_changes (e : Env) (i : Instr) (s : State) {k : Nat} (hlt : k < Config.pAssoc) :
    s.Changes e (i = .assocRekey ∧ s.blk.argSlot.toNat = k) k (runSteps e (ruleOf e i) s) := by
  have hframe := runSteps_ruleOf_frame e i s
  by_cases hk : s.blk.argSlot.toNat = k
  case neg => exact .of_same (hframe.blk.others k (Ne.symm hk)) (hframe.records k (Ne.symm hk))
  by_cases hi : i ∈ slotCommands
  case neg =>
    obtain ⟨hnv, _⟩ := hframe.quiet hi
    exact .of_same (by rw [Block.slot, hframe.blk.slots hi, ← Block.slot]) (by rw [hnv])
  clear hframe
  have refused {f : Block → Turn} {rest : Rule} {rekey : Prop} {c : ResultCode} (hf : f s.blk = .finish c s.blk) :
      s.Changes e rekey k (runSteps e (f :: rest) s) := by
    rw [runSteps_finish e hf]
    exact .of_same rfl rfl
  have committed {f : Block → Turn} {r m : Ctr} {rekey : Prop} (hr : s.blk.CanRecord r m)
      (hf : f s.blk = commitTurn s.blk.argSlot.toNat r m s.blk) : s.Changes e rekey k (runSteps e [f] s) := by
    rw [commit_end e hf rfl]
    subst hk
    exact .of_stored s.blk s.blk hlt (.recorded r m hr.isOpen hr.fresh) length_of_mem_record rfl rfl
  cases i
  case assocOpen =>
    by_cases h : be24At (nvRecord e s.nv k) 0 = Config.ctrMax
    · rw [ruleOf, assocOpen_end_exhausted e hk hlt rfl h]
      exact .of_stored (written := none) s.blk s.blk hlt (.openedExhausted h) nofun rfl rfl
    · rw [ruleOf, assocOpen_end e hk hlt rfl h rfl]
      exact .of_stored (takeSeed e s.blk).2 s.blk hlt (.opened _ h) length_of_mem_record rfl rfl
  case assocRekey =>
    rw [ruleOf, assocRekey_end e hk hlt rfl]
    exact .of_stored (takeSeed e s.blk).2 s.blk hlt (.rekeyed _ ⟨rfl, hk⟩) length_of_mem_record rfl rfl
  case txNext =>
    obtain ⟨_, _, hend⟩ | h := runSteps_txNext_cases e s
    · rw [ruleOf, hend]; exact .of_same rfl rfl
    · exact (hk ▸ h).changes
  case rxCommit =>
    obtain ⟨_, hf⟩ | ⟨hr, hf⟩ := rxCommitStep_cases s.blk
    · exact refused hf
    · exact committed hr hf
  case rxRatchet =>
    obtain ⟨_, hf⟩ | ⟨hr, hf⟩ := rxRatchetStep_cases s.blk
    · exact refused hf
    · exact committed hr hf
  case secEncode =>
    obtain ⟨_, hend⟩ | ⟨_, _, h, _⟩ := runSteps_secEncode_cases e s
    · rw [ruleOf, hend]; exact .of_same rfl rfl
    · exact (hk ▸ h).changes
  case secDecode =>
    obtain ⟨_, hf⟩ | ⟨hr, q, g, hq, hf⟩ := secDecodeStart_cases e s.blk
    · exact refused hf
    · obtain ⟨j, rec, hnv, _⟩ | ⟨_, g', d, ha⟩ := answer_cases e (s.issue q (s.blk.withStg g)) q
      · exact absurd hnv (hq j rec)
      · rw [ruleOf, secDecodeRule, runSteps_ask e hf, ha]
        exact runSteps_open e g' d _ hk hr
  all_goals exact absurd hi (by decide)

/-! What a change keeps -/

/-- A slot, when open, agrees with its NV record: `NvMatches` of the slot and the record alone. -/
def Agrees (sl : Slot) (rec : List Byte) : Prop :=
  sl.isOpen = true →
    be24At rec 0 = sl.txRc ∧ ((byteAt rec 3 != 0x00) = sl.rxLav) ∧ be24At rec 4 = sl.rxLr ∧ be24At rec 7 = sl.rxLm

theorem nvMatches_iff_agrees (e : Env) (k : Nat) (s : State) :
    NvMatches e k s ↔ Agrees (s.blk.slot k) (nvRecord e s.nv k) := Iff.rfl

theorem agrees_record (sl : Slot) : Agrees sl sl.record := fun _ =>
  ⟨be24At_record_rc sl, byteAt_record_lav sl, be24At_record_lr sl, be24At_record_lm sl⟩

/-- What handing out a pair can do (R240): count up, roll over with an NV write, or mark the slot exhausted. -/
theorem advancedBy_cases (sl : Slot) (seed : Ctr) :
    (sl.txMc ≠ Config.ctrMax ∧ sl.advancedBy seed = { sl with txMc := sl.txMc + 1 } ∧ sl.advanceWrite seed = none) ∨
    (sl.txRc ≠ Config.ctrMax ∧ sl.advancedBy seed = { sl with txRc := sl.txRc + 1, txMc := seed } ∧
      sl.advanceWrite seed = some (sl.advancedBy seed).record) ∨
    (sl.advancedBy seed = { sl with txExh := true } ∧ sl.advanceWrite seed = none) := by
  by_cases hm : sl.txMc = Config.ctrMax
  · by_cases hr : sl.txRc = Config.ctrMax
    · exact .inr (.inr (by simp [Slot.advancedBy, Slot.advanceWrite, Slot.rollsOver, hm, hr]))
    · exact .inr (.inl (by simp [Slot.advancedBy, Slot.advanceWrite, Slot.rollsOver, hm, hr]))
  · exact .inl (by simp [Slot.advancedBy, Slot.advanceWrite, Slot.rollsOver, hm])

theorem advancedBy_isOpen (sl : Slot) (seed : Ctr) : (sl.advancedBy seed).isOpen = sl.isOpen := by
  unfold Slot.advancedBy
  split_ifs <;> rfl

/-- Handing out a pair is nothing to the receiving side. -/
theorem advancedBy_fresh (sl : Slot) (seed r m : Ctr) : (sl.advancedBy seed).fresh r m = sl.fresh r m := by
  unfold Slot.advancedBy
  split_ifs <;> rfl

section
variable {rekey : Prop} {sl sl' : Slot} {rec rec' : List Byte}

theorem SlotChange.mono {rekey' : Prop} (h : SlotChange rekey sl rec sl' rec') (himp : rekey → rekey') :
    SlotChange rekey' sl rec sl' rec' := by
  cases h with
  | kept => exact .kept
  | opened seed h => exact .opened seed h
  | openedExhausted h => exact .openedExhausted h
  | rekeyed seed h => exact .rekeyed seed (himp h)
  | advanced seed ho hx => exact .advanced seed ho hx
  | recorded r m ho hf => exact .recorded r m ho hf

/-- R236, R245: what a command writes of the slot's counters it writes to NV. -/
theorem SlotChange.agrees (h : SlotChange rekey sl rec sl' rec') (ha : Agrees sl rec) : Agrees sl' rec' := by
  cases h with
  | kept => exact ha
  | opened | rekeyed | recorded => exact agrees_record _
  | openedExhausted h => exact fun _ => ⟨h, rfl, rfl, rfl⟩
  | advanced seed =>
    obtain ⟨_, hsl, hw⟩ | ⟨_, _, hw⟩ | ⟨hsl, hw⟩ := advancedBy_cases sl seed
    · rw [hsl, hw]; exact ha
    · rw [hw]; exact agrees_record _
    · rw [hsl, hw]; exact ha

/-- No command closes a slot. -/
theorem SlotChange.isOpen (h : SlotChange rekey sl rec sl' rec') (ho : sl.isOpen = true) : sl'.isOpen = true := by
  cases h with
  | kept | recorded => exact ho
  | opened | openedExhausted | rekeyed => rfl
  | advanced seed => rw [advancedBy_isOpen, ho]

end

/-! The sender's side: the slot is past a pair -/

/-- Every pair the slot may yet hand out is above `p`: the next one of an open slot is, and an epoch opened on the record would
be. -/
def Ahead (p : Ctr × Ctr) (sl : Slot) (rec : List Byte) : Prop :=
  (sl.isOpen = true → sl.txExh = false → lexGt sl.txRc sl.txMc p.1 p.2 = true) ∧ p.1 ≤ be24At rec 0

theorem lexGt_iff (a b c d : Ctr) : lexGt a b c d = true ↔ c < a ∨ a = c ∧ d < b := by
  simp [lexGt]

theorem lexGt_trans {a b c d r m : Ctr} (h : lexGt a b c d = true) (h' : lexGt c d r m = true) : lexGt a b r m = true := by
  rw [lexGt_iff] at *
  bv_omega

theorem lexGt_ctrMax (r m : Ctr) : lexGt r m Config.ctrMax Config.ctrMax = false := by
  rw [← Bool.not_eq_true, lexGt_iff, Config.ctrMax]
  bv_omega

theorem lt_add_one_of_ne_ctrMax {v : Ctr} (h : v ≠ Config.ctrMax) : v < v + 1 := by
  rw [Config.ctrMax] at h
  bv_omega

section
variable {sl sl' : Slot} {rec rec' : List Byte} {p q : Ctr × Ctr}

theorem Ahead.trans (h : Ahead q sl rec) (hq : lexGt q.1 q.2 p.1 p.2 = true) : Ahead p sl rec := by
  obtain ⟨hnext, hrec⟩ := h
  refine ⟨fun ho hx => lexGt_trans (hnext ho hx) hq, ?_⟩
  rw [lexGt_iff] at hq
  bv_omega

/-- A slot that has handed out its pair is past it (R240). -/
theorem ahead_advancedBy (ha : Agrees sl rec) (ho : sl.isOpen = true) (seed : Ctr) :
    Ahead (sl.txRc, sl.txMc) (sl.advancedBy seed) ((sl.advanceWrite seed).getD rec) := by
  obtain ⟨hrc, _⟩ := ha ho
  obtain ⟨hm, hsl, hw⟩ | ⟨hr, hsl, hw⟩ | ⟨hsl, hw⟩ := advancedBy_cases sl seed
  · rw [hsl, hw]
    exact ⟨fun _ _ => (lexGt_iff ..).2 (.inr ⟨rfl, lt_add_one_of_ne_ctrMax hm⟩), hrc.symm ▸ BitVec.le_refl _⟩
  · have hlt := lt_add_one_of_ne_ctrMax hr
    rw [hw, hsl]
    exact ⟨fun _ _ => (lexGt_iff ..).2 (.inl hlt), (be24At_record_rc _).symm ▸ BitVec.le_of_lt hlt⟩
  · rw [hsl, hw]
    exact ⟨nofun, hrc.symm ▸ BitVec.le_refl _⟩

theorem SlotChange.ahead (h : SlotChange False sl rec sl' rec') (ha : Agrees sl rec) (hp : Ahead p sl rec) :
    Ahead p sl' rec' := by
  obtain ⟨hnext, hrec⟩ := hp
  cases h with
  | kept => exact ⟨hnext, hrec⟩
  | opened seed h =>
    have hlt : p.1 < be24At rec 0 + 1 := Nat.lt_of_le_of_lt hrec (lt_add_one_of_ne_ctrMax h)
    exact ⟨fun _ _ => (lexGt_iff ..).2 (.inl hlt), (be24At_record_rc _).symm ▸ BitVec.le_of_lt hlt⟩
  | openedExhausted h => exact ⟨nofun, hrec⟩
  | rekeyed seed h => exact h.elim
  | advanced seed ho hx => exact (ahead_advancedBy ha ho seed).trans (hnext ho hx)
  | recorded r m ho hf =>
    obtain ⟨hrc, _⟩ := ha ho
    exact ⟨hnext, (be24At_record_rc _).symm ▸ hrc ▸ hrec⟩

end

/-! The receiver's side: a pair is not fresh -/

/-- The pair is not fresh on the slot when it is open, and would not be if the slot were opened on the record. -/
def Spent (r m : Ctr) (sl : Slot) (rec : List Byte) : Prop :=
  (sl.isOpen = true → sl.fresh r m = false) ∧ RecordStale r m rec

section
variable {sl sl' : Slot} {rec rec' : List Byte} {r m : Ctr}

theorem spent_record (h : sl.fresh r m = false) : Spent r m sl sl.record := by
  refine ⟨fun _ => h, ?_⟩
  rw [RecordStale, byteAt_record_lav, be24At_record_lr, be24At_record_lm]
  exact (Slot.fresh_eq_false_iff sl r m).1 h

theorem SlotChange.spent (h : SlotChange False sl rec sl' rec') (hs : Spent r m sl rec) : Spent r m sl' rec' := by
  obtain ⟨hslot, hrec⟩ := hs
  cases h with
  | kept => exact ⟨hslot, hrec⟩
  | opened seed h => exact spent_record ((Slot.fresh_eq_false_iff ..).2 hrec)
  | openedExhausted h => exact ⟨fun _ => (Slot.fresh_eq_false_iff ..).2 hrec, hrec⟩
  | rekeyed seed h => exact h.elim
  | advanced seed ho hx =>
    have hfresh : (sl.advancedBy seed).fresh r m = false := (advancedBy_fresh ..).trans (hslot ho)
    obtain ⟨_, _, hw⟩ | ⟨_, _, hw⟩ | ⟨_, hw⟩ := advancedBy_cases sl seed
    · rw [hw]; exact ⟨fun _ => hfresh, hrec⟩
    · rw [hw]; exact spent_record hfresh
    · rw [hw]; exact ⟨fun _ => hfresh, hrec⟩
  | recorded r' m' ho hf => exact spent_record (Slot.fresh_recordPair (hslot ho) hf)

end

/-! The actions of a life -/

/-- A fact of a slot and its record that no action of the life of a key changes: it speaks of no key, node ID or role, every
command but ASSOC_REKEY keeps it, and it holds of a closed slot if it held of the record. -/
structure LifeInvariant (I : Slot → List Byte → Prop) : Prop where
  hostWrite : ∀ {sl sl' rec}, I sl rec → sl.SameCounters sl' → I sl' rec
  command : ∀ {sl sl' rec rec'}, I sl rec → SlotChange False sl rec sl' rec' → I sl' rec'
  reset : ∀ {sl rec}, I sl rec → I Slot.reset rec

theorem lifeInvariant_agrees : LifeInvariant Agrees where
  hostWrite h hs := by obtain ⟨_, _, _, rfl⟩ := hs; exact h
  command h hc := hc.agrees h
  reset _ := nofun

theorem lifeInvariant_ahead (p : Ctr × Ctr) : LifeInvariant fun sl rec => Agrees sl rec ∧ Ahead p sl rec where
  hostWrite h hs := by obtain ⟨_, _, _, rfl⟩ := hs; exact h
  command := fun ⟨ha, hp⟩ hc => ⟨hc.agrees ha, hc.ahead ha hp⟩
  reset := fun ⟨_, _, hrec⟩ => ⟨nofun, nofun, hrec⟩

theorem lifeInvariant_spent (r m : Ctr) : LifeInvariant (Spent r m) where
  hostWrite h hs := by obtain ⟨_, _, _, rfl⟩ := hs; exact h
  command h hc := hc.spent h
  reset := fun ⟨_, hrec⟩ => ⟨nofun, hrec⟩

/-- A Host write changes neither the counters of a slot nor a record. -/
theorem hostWrite_sameCounters (s : State) (a : HostAddr) (v : Byte) (k : Nat) :
    (s.blk.slot k).SameCounters ((s.hostWrite a v).blk.slot k) ∧ (s.hostWrite a v).nv = s.nv := by
  have same (sl : Slot) : sl.SameCounters sl := ⟨sl.key, sl.nodeId, sl.role, rfl⟩
  cases hp : s.phase with
  | busy op n req => rw [hostWrite_busy hp]; exact ⟨same _, rfl⟩
  | idle =>
    rw [hostWrite_idle hp]
    have hw := writeLocation_written s a.toNat v
    generalize s.writeLocation a.toNat v = t at hw
    cases hw
    case command | buffer => exact ⟨same _, rfl⟩
    case slot j sl hsl =>
      refine ⟨?_, rfl⟩
      obtain he | ⟨rfl, he⟩ := slot_setSlot_cases s.blk j sl k
      · rw [he]; exact same _
      · rw [he]; exact hsl
    case registers b _ _ _ hsame =>
      refine ⟨?_, rfl⟩
      have he : b.slot k = s.blk.slot k := by rw [Block.slot, hsame.slots, ← Block.slot]
      rw [he]; exact same _

/-- After a reset every slot reads as R62 says. -/
theorem powerOn_slot (s : State) (landed : Bool) (k : Nat) : (s.powerOn landed).blk.slot k = Slot.reset := slot_reset k

theorem noRekey_cons {e : Env} {k : Nat} {a : Act} {as : List Act} {s : State} (h : noRekey e k s (a :: as) = true) :
    a.rekeys k s = false ∧ noRekey e k (a.after e s) as = true := by
  simpa [noRekey] using h

section
variable {I : Slot → List Byte → Prop} (hI : LifeInvariant I) {e : Env} {k : Nat} (hk : k < Config.pAssoc)
include hI hk

theorem LifeInvariant.commandEnd {i : Instr} {s : State} (hr : ¬(i = .assocRekey ∧ s.blk.argSlot.toNat = k))
    (h : I (s.blk.slot k) (nvRecord e s.nv k)) :
    I ((commandEnd e i s).blk.slot k) (nvRecord e (commandEnd e i s).nv k) :=
  hI.command (rec := nvRecord e s.nv k) h ((runSteps_ruleOf_changes e i (s.startCommand (encodeByte i)) hk).mono hr)

theorem LifeInvariant.act {a : Act} {s : State} (hr : a.rekeys k s = false) (h : I (s.blk.slot k) (nvRecord e s.nv k)) :
    I ((a.after e s).blk.slot k) (nvRecord e (a.after e s).nv k) := by
  cases a with
  | command i => exact hI.commandEnd hk (by rintro ⟨rfl, hs⟩; simp [Act.rekeys, hs] at hr) h
  | hostWrite a v =>
    obtain ⟨hsl, hnv⟩ := hostWrite_sameCounters s a v k
    rw [Act.after, hnv]
    exact hI.hostWrite h hsl
  | powerCycle => exact (powerOn_slot _ false k).symm ▸ hI.reset h
  | crash i landed =>
    have hend := hI.commandEnd hk (i := i) (by rintro ⟨rfl, hs⟩; simp [Act.rekeys, hs] at hr) h
    have hslot : ((Act.crash i landed).after e s).blk.slot k = Slot.reset := powerOn_slot _ false k
    rw [hslot]
    cases landed with
    | true => exact hI.reset hend
    | false => exact hI.reset h

theorem LifeInvariant.acts {as : List Act} {s : State} (hr : noRekey e k s as = true)
    (h : I (s.blk.slot k) (nvRecord e s.nv k)) :
    I ((afterActs e s as).blk.slot k) (nvRecord e (afterActs e s as).nv k) := by
  induction as generalizing s with
  | nil => exact h
  | cons a as ih =>
    obtain ⟨ha, has⟩ := noRekey_cons hr
    exact ih has (hI.act hk ha h)

end

/-- Settles O45: opened again, the slot loads a record on which the pair is not fresh. -/
theorem acceptedPairIsNeverFreshAgain : Obligations.AcceptedPairIsNeverFreshAgain := by
  intro e k s as r m hk hnv ho hf hr ho'
  have hs : Spent r m (s.blk.slot k) (nvRecord e s.nv k) := ⟨fun _ => hf, recordStale_of_nvMatches hnv ho hf⟩
  obtain ⟨hslot, _⟩ := (lifeInvariant_spent r m).acts hk hr hs
  exact hslot ho'

/-- Settles O46: a command's changes keep the agreement, a Host write changes no counter, and a reset closes every slot. -/
theorem openSlotsAgreeWithNv : Obligations.OpenSlotsAgreeWithNv := by
  intro s k hk hnv
  refine ⟨fun i => ⟨_, exec_eq_execWith i s, (runSteps_ruleOf_changes Config.env i s hk).agrees hnv⟩, fun a v => ?_,
    fun landed ho => ?_⟩
  · obtain ⟨⟨_, _, _, hsl⟩, hrec⟩ := hostWrite_sameCounters s a v k
    rw [nvMatches_iff_agrees, hsl, hrec]
    exact hnv
  · rw [powerOn_slot] at ho
    cases ho

/-! The pairs handed out -/

/-- The pair an action hands out is the slot's next one, and the slot advances. -/
theorem handsOut_of_pairOut {e : Env} {k : Nat} {s : State} {a : Act} {p : Ctr × Ctr} (h : a.pairOut e k s = some p) :
    s.HandsOut e k (a.after e s) p := by
  cases a with
  | hostWrite | powerCycle | crash => cases h
  | command i =>
    cases i
    case txNext =>
      simp only [Act.pairOut] at h
      split_ifs at h with hok
      obtain ⟨rfl, hok⟩ := hok
      obtain rfl := Option.some.inj h
      obtain ⟨c, hc, hend⟩ | ⟨ho, hx, hp, hadv⟩ := runSteps_txNext_cases e (s.startCommand (encodeByte .txNext))
      · rw [commandEnd, ruleOf, hend] at hok
        exact absurd hok hc
      · exact ⟨ho, hx, hp, hadv⟩
    case secEncode =>
      simp only [Act.pairOut] at h
      split_ifs at h with hk
      subst hk
      obtain ⟨c, hend⟩ | ⟨q, reqs, ⟨ho, hx, hp, hadv⟩, hreqs, hpair⟩ :=
        runSteps_secEncode_cases e (s.startCommand (encodeByte .secEncode))
      · rw [commandEnd, ruleOf, hend] at h
        cases h
      · rw [commandEnd, ruleOf, hreqs] at h
        obtain rfl := Option.some.inj (hpair.symm.trans h)
        exact ⟨ho, hx, hp, hadv⟩
    all_goals cases h

section
variable {e : Env} {k : Nat} (hk : k < Config.pAssoc)
include hk

/-- Every pair handed out later is above a pair that the slot is past. -/
theorem lexGt_of_mem_pairsOut {as : List Act} {s : State} {p : Ctr × Ctr} (ha : NvMatches e k s)
    (hp : Ahead p (s.blk.slot k) (nvRecord e s.nv k)) (hr : noRekey e k s as = true) :
    ∀ q ∈ pairsOut e k s as, lexGt q.1 q.2 p.1 p.2 = true := by
  induction as generalizing s with
  | nil => exact nofun
  | cons a as ih =>
    obtain ⟨hr, hrs⟩ := noRekey_cons hr
    intro q hq
    obtain hq | hq := List.mem_append.1 hq
    · obtain ⟨ho, hx, rfl, _⟩ := handsOut_of_pairOut (Option.mem_toList.1 hq)
      exact hp.1 ho hx
    · obtain ⟨ha', hp'⟩ := (lifeInvariant_ahead p).act hk hr ⟨ha, hp⟩
      exact ih ha' hp' hrs q hq

theorem pairwise_pairsOut {as : List Act} {s : State} (ha : NvMatches e k s) (hr : noRekey e k s as = true) :
    (pairsOut e k s as).Pairwise fun p q => lexGt q.1 q.2 p.1 p.2 = true := by
  induction as generalizing s with
  | nil => exact .nil
  | cons a as ih =>
    obtain ⟨hr, hrs⟩ := noRekey_cons hr
    have ha' : NvMatches e k (a.after e s) := lifeInvariant_agrees.act hk hr ha
    have hrest := ih ha' hrs
    rw [pairsOut]
    cases hp : a.pairOut e k s with
    | none => exact hrest
    | some p =>
      obtain ⟨ho, _, rfl, seed, hslot, hrec⟩ := handsOut_of_pairOut hp
      have hpast := ahead_advancedBy ha ho seed
      rw [← hslot, ← hrec] at hpast
      exact .cons (lexGt_of_mem_pairsOut hk ha' hpast hrs) hrest

end

/-- Settles O47: an action that hands out a pair leaves the slot past it. -/
theorem handedOutPairsStrictlyIncrease : Obligations.HandedOutPairsStrictlyIncrease :=
  fun _ _ _ _ hk ha _ hr => pairwise_pairsOut hk ha hr

/-! The exhausted slot -/

/-- The last pair: no pair is above it. -/
def lastPair : Ctr × Ctr := (Config.ctrMax, Config.ctrMax)

/-- An exhausted open slot is past the last pair. -/
theorem ahead_lastPair {sl : Slot} {rec : List Byte} (ho : sl.isOpen = true) (hx : sl.txExh = true) (hi : sl.Inv)
    (ha : Agrees sl rec) : Ahead lastPair sl rec := by
  obtain ⟨hrc, _⟩ := hi.2 hx
  obtain ⟨hrec, _⟩ := ha ho
  refine ⟨fun _ hx' => by simp [hx] at hx', ?_⟩
  rw [hrec, hrc]
  exact BitVec.le_refl _

/-- An open slot past the last pair is exhausted. -/
theorem txExh_of_ahead_lastPair {sl : Slot} {rec : List Byte} (h : Ahead lastPair sl rec) (ho : sl.isOpen = true) :
    sl.txExh = true := by
  by_contra hx
  have hgt := h.1 ho (by simpa using hx)
  rw [lastPair, lexGt_ctrMax] at hgt
  cases hgt

theorem secEncodeStart_of_exhausted (e : Env) {b : Block} (hk : b.argSlot.toNat < Config.pAssoc)
    (ho : (b.slot b.argSlot.toNat).isOpen = true) (hx : (b.slot b.argSlot.toNat).txExh = true) :
    secEncodeStart e b = .finish
      (if secEncodeTooLong b (b.paddedBody e).length then .invalidLength else .counterSpaceExhausted) b := by
  rw [secEncodeStart, withOpenSlot_of_open _ hk ho, if_pos hx]
  split_ifs <;> rfl

/-- Settles O43: an exhausted slot is past the last pair, and stays so, while no pair is above that one. -/
theorem exhaustedSlotKeepsRefusing : Obligations.ExhaustedSlotKeepsRefusing := by
  refine ⟨?refuses, ?stays, ?nothing⟩
  case refuses =>
    rintro s k rfl hk ho hx
    exact ⟨exec_of_finish (i := .txNext) rfl (txNextStep_of_exhausted _ hk ho hx),
      exec_of_finish (i := .secEncode) rfl (secEncodeStart_of_exhausted _ hk ho hx)⟩
  case stays =>
    intro s k hk ho hx hi ha
    refine ⟨fun i hne => ⟨_, exec_eq_execWith i s, ?_⟩, fun a v => ?_⟩
    · have hc := (runSteps_ruleOf_changes Config.env i s hk).mono fun ⟨h, h'⟩ => hne.elim (· h) (· h')
      have ho' := hc.isOpen ho
      exact ⟨ho', txExh_of_ahead_lastPair (hc.ahead ha (ahead_lastPair ho hx hi ha)) ho'⟩
    · obtain ⟨⟨_, _, _, hsl⟩, _⟩ := hostWrite_sameCounters s a v k
      rw [hsl]
      exact ⟨ho, hx⟩
  case nothing =>
    intro e s k as hk ho hx hi ha hr
    refine List.eq_nil_iff_forall_not_mem.2 fun q hq => ?_
    have hgt := lexGt_of_mem_pairsOut hk ha (ahead_lastPair ho hx hi ha) hr q hq
    rw [lastPair, lexGt_ctrMax] at hgt
    cases hgt

end Sys2Proof.Machine
end

section
/-! SUPPORT. Padding (44_secureframe R281, R282): the content length, what unpadding gives, and the sizes of secure frames (O48,
O49, O50). -/

namespace Sys2Proof.Machine

/-- The least content length a body is padded to, `m` of R281. -/
def minContent (pad31 : Bool) : Nat := if pad31 then 31 else 15

theorem minContent_cases (pad31 : Bool) : minContent pad31 = 15 ∨ minContent pad31 = 31 := by
  cases pad31
  · exact .inl rfl
  · exact .inr rfl

/-- R281's content length is the least one: 15 mod 16, at least the body and the minimum, and less than 16 above them. -/
theorem contentLength_spec (L : Nat) (pad31 : Bool) :
    contentLength L pad31 % 16 = 15 ∧ max L (minContent pad31) ≤ contentLength L pad31 ∧
      contentLength L pad31 < max L (minContent pad31) + 16 := by
  unfold contentLength minContent
  omega

/-- The pad count fits the five bits of the last byte (R281). -/
theorem padCount_le (L : Nat) (pad31 : Bool) : padCount L pad31 ≤ 31 := by
  obtain ⟨hmod, hle, hlt⟩ := contentLength_spec L pad31
  have hmin := minContent_cases pad31
  unfold padCount
  omega

/-- The padded body is the body, the zero bytes and the count. -/
theorem length_pad (body : List Byte) (pad31 : Bool) :
    (pad body pad31).length = body.length + padCount body.length pad31 + 1 := by
  simp [pad, Nat.add_assoc]

/-- `|result| = C + 1` (R281). -/
theorem length_pad_eq_contentLength (body : List Byte) (pad31 : Bool) :
    (pad body pad31).length = contentLength body.length pad31 + 1 := by
  obtain ⟨-, hle, -⟩ := contentLength_spec body.length pad31
  rw [length_pad, padCount]
  omega

/-- The last byte of the padded body holds the pad count. -/
theorem byteAt_pad_last (body : List Byte) (pad31 : Bool) :
    (byteAt (pad body pad31) (body.length + padCount body.length pad31)).toNat = padCount body.length pad31 := by
  have hlast : byteAt (pad body pad31) (body.length + padCount body.length pad31) =
      BitVec.ofNat 8 (padCount body.length pad31) := by simp [byteAt, pad]
  rw [hlast, toNat_ofNat_byte ((padCount_le _ _).trans (by decide))]

/-- "nonzero reserved bits" of a pad byte (R282). -/
theorem reservedBits_ne_zero_iff (p : Byte) : p.extractLsb' 5 3 ≠ 0 ↔ 31 < p.toNat := by
  have hbits : (p.extractLsb' 5 3).toNat = p.toNat / 32 := by
    rw [BitVec.extractLsb'_toNat, Nat.shiftRight_eq_div_pow]
    exact Nat.mod_eq_of_lt (by omega)
  rw [Ne, BitVec.toNat_eq, hbits]
  change ¬p.toNat / 32 = 0 ↔ _
  omega

/-- What makes `unpad` reject (R282). -/
def BadPadding (pt : List Byte) : Prop :=
  pt = [] ∨ 31 < (byteAt pt (pt.length - 1)).toNat ∨ pt.length < (byteAt pt (pt.length - 1)).toNat + 1

theorem unpad_of_bad {pt : List Byte} (h : BadPadding pt) : unpad pt = none := by
  unfold unpad
  dsimp only
  split_ifs with hempty hbits hlen
  case neg =>
    rw [reservedBits_ne_zero_iff] at hbits
    rcases h with rfl | h | h
    exacts [absurd rfl hempty, absurd h hbits, absurd h hlen]
  all_goals rfl

theorem unpad_of_good {pt : List Byte} (h : ¬BadPadding pt) :
    unpad pt = some (pt.take (pt.length - 1 - (byteAt pt (pt.length - 1)).toNat)) := by
  obtain ⟨hempty, hbits, hlen⟩ := not_or.1 h |>.imp_right not_or.1
  rw [← reservedBits_ne_zero_iff] at hbits
  rw [unpad, if_neg (by simpa using hempty), if_neg hbits, if_neg hlen]

/-- Unpadding inverts padding (R295). -/
theorem unpad_pad (body : List Byte) (pad31 : Bool) : unpad (pad body pad31) = some body := by
  have hlen := length_pad body pad31
  have hlast : (byteAt (pad body pad31) ((pad body pad31).length - 1)).toNat = padCount body.length pad31 := by
    rw [hlen]
    exact byteAt_pad_last body pad31
  have hgood : ¬BadPadding (pad body pad31) := by
    rintro (h | h | h)
    · simp [h] at hlen
    · exact absurd (hlast ▸ h) (Nat.not_lt.2 (padCount_le _ _))
    · rw [hlast] at h
      omega
  rw [unpad_of_good hgood, hlast, hlen, Nat.add_sub_cancel, Nat.add_sub_cancel, pad, List.append_assoc, List.take_left]

/-- Settles O48: the content length gives the sizes, the three parts of the padded body its bytes. -/
theorem paddingRoundTrip : Obligations.PaddingRoundTrip := by
  intro body pad31
  obtain ⟨hmod, hle, hlt⟩ := contentLength_spec body.length pad31
  have hlen := length_pad_eq_contentLength body pad31
  have hmin := minContent_cases pad31
  have hbound : (if pad31 then 32 else 16) = minContent pad31 + 1 := by cases pad31 <;> rfl
  refine ⟨by omega, by omega, by omega, padCount_le _ _, length_pad _ _, fun j hj => ?_, fun j hj => ?_, byteAt_pad_last _ _,
    unpad_pad _ _⟩
  · simp [byteAt, pad, List.getElem?_append, hj]
  · simp [byteAt, pad, List.getElem?_append, hj]

/-- Settles O49: `unpad` gives the first bytes exactly when the padding is not bad. -/
theorem unpadRejectsExactly : Obligations.UnpadRejectsExactly := by
  refine ⟨fun pt => ⟨fun h => ?_, unpad_of_bad⟩, fun pt body h => ?_⟩
  · by_contra hgood
    rw [unpad_of_good hgood] at h
    cases h
  · have hgood : ¬BadPadding pt := fun hbad => by rw [unpad_of_bad hbad] at h; cases h
    have hbody := Option.some.inj ((unpad_of_good hgood).symm.trans h)
    obtain ⟨-, -, hlen⟩ := not_or.1 hgood |>.imp_right not_or.1
    have hlength : body.length = pt.length - 1 - (byteAt pt (pt.length - 1)).toNat := by
      rw [← hbody, List.length_take]
      omega
    exact ⟨by rw [hlength, hbody], by omega⟩

/-- Settles O50: the padded length is the least multiple of 16, and 224 or 208 is the last one that fits. -/
theorem secureFrameSizes : Obligations.SecureFrameSizes := by
  rintro n _ pad31 body rfl hn
  obtain ⟨hmod, hle, hlt⟩ := contentLength_spec body.length pad31
  have hlen := length_pad_eq_contentLength body pad31
  have hmin := minContent_cases pad31
  refine ⟨?fits, ?pad31, ?pad15⟩
  case fits => split_ifs <;> omega
  case pad31 =>
    rintro rfl hL
    replace hmin : minContent true = 31 := rfl
    omega
  case pad15 =>
    rintro rfl hL
    replace hmin : minContent false = 15 := rfl
    omega

end Sys2Proof.Machine
end

section
/-! SUPPORT. SEC_ENCODE (44_secureframe R284 to R286), for any agents and parameters: its checks (O51), and how it ends (O52). -/

namespace Sys2Proof.Machine

/-! The checks (R284) -/

/-- R284's four conditions, for a padded body of `bl` bytes. -/
theorem secEncodeTooLong_iff (b : Block) (bl : Nat) : secEncodeTooLong b bl = true ↔
    8 < b.argIdLen.toNat ∨ b.frameType = 0x00 ∨ b.frameType = 0x7F ∨ 251 < bl ∨ 255 < 3 + b.argIdLen.toNat + bl + 23 := by
  simp only [secEncodeTooLong, reservedType, Bool.if_true_left, Bool.or_eq_true, decide_eq_true_eq, beq_iff_eq, or_assoc]
  rfl

/-- What SEC_ENCODE asks of the block before it uses a counter: a slot that may send, and a frame that can be built. -/
structure Block.CanSeal (e : Env) (b : Block) : Prop extends b.CanSend where
  fits : secEncodeTooLong b (b.paddedBody e).length = false

theorem Block.CanSend.canSeal {e : Env} {b : Block} (h : b.CanSend) (hn : b.argIdLen.toNat ≤ 8) (ht : b.frameType ≠ 0x00)
    (ht' : b.frameType ≠ 0x7F) (hbl : (b.paddedBody e).length ≤ 251)
    (hfl : 3 + b.argIdLen.toNat + (b.paddedBody e).length + 23 ≤ 255) : b.CanSeal e := by
  refine ⟨h, ?_⟩
  rw [Bool.eq_false_iff, Ne, secEncodeTooLong_iff]
  rintro (h | h | h | h | h)
  exacts [by omega, ht h, ht' h, by omega, by omega]

theorem secEncodeStart_of_tooLong {e : Env} {b : Block} (hk : b.argSlot.toNat < Config.pAssoc)
    (ho : (b.slot b.argSlot.toNat).isOpen = true) (h : secEncodeTooLong b (b.paddedBody e).length = true) :
    secEncodeStart e b = .finish .invalidLength b := by
  rw [secEncodeStart, withOpenSlot_of_open _ hk ho, if_pos h]

theorem secEncodeStart_of_canSeal {e : Env} {b : Block} (h : b.CanSeal e) :
    secEncodeStart e b = advanceTurn e (b.withStg (b.toSeal e)) := by
  rw [secEncodeStart, withOpenSlot_of_open _ h.lt h.isOpen, if_neg (by simp [h.fits]), if_neg (by simp [h.notExhausted])]
  rfl

/-- Settles O51: the checks come first. -/
theorem secEncodeRejectsInvalidLength : Obligations.SecEncodeRejectsInvalidLength := by
  rintro s k rfl hk ho h
  exact exec_of_finish (i := .secEncode) rfl (secEncodeStart_of_tooLong hk ho ((secEncodeTooLong_iff _ _).2 h))

/-! The counters are advanced -/

/-- The count of draws after slot `k` handed out its next pair: the seed of a new epoch may have been drawn. -/
def Block.drawsAdvanced (e : Env) (k : Nat) (b : Block) : Nat :=
  if (b.slot k).rollsOver then (takeSeed e b).2.draws else b.draws

/-- A seed of 0 is not drawn (43_replayguard R238). -/
theorem drawsAdvanced_of_seed_zero {e : Env} (h : e.mcSeedBits = 0) (k : Nat) (b : Block) :
    b.drawsAdvanced e k = b.draws := by
  simp [Block.drawsAdvanced, takeSeed, h]

/-- A draw changes only the count of draws. -/
theorem ite_takeSeed_eq (e : Env) (k : Nat) (b : Block) (g : Staging) :
    (if (b.slot k).rollsOver then (takeSeed e (b.withStg g)).2 else b.withStg g) =
      { b with stg := g, draws := b.drawsAdvanced e k } := by
  unfold Block.drawsAdvanced takeSeed
  split_ifs <;> rfl

theorem advancedBy_sameIdentity (sl : Slot) (seed : Ctr) : sl.SameIdentity (sl.advancedBy seed) := by
  unfold Slot.advancedBy
  split_ifs <;> exact ⟨rfl, rfl, rfl⟩

/-- SEC_ENCODE up to the request to the engine. -/
theorem runSteps_secEncode {e : Env} {s : State} (h : s.blk.CanSeal e) {k : Nat} (hk : s.blk.argSlot.toNat = k) :
    runSteps e (secEncodeRule e) s = runSteps e [secEncodeSeal, secEncodeFinish] (s.stored k
      (Block.setSlot { s.blk with stg := s.blk.toSeal e, draws := s.blk.drawsAdvanced e k } k
        ((s.blk.slot k).advancedBy (takeSeed e s.blk).1))
      ((s.blk.slot k).advanceWrite (takeSeed e s.blk).1)) := by
  have hargSlot : (s.blk.withStg (s.blk.toSeal e)).argSlot.toNat = k := hk
  rw [secEncodeRule, runSteps_advanceTurn e _ hargSlot (secEncodeStart_of_canSeal h), Block.withStg_slot, ite_takeSeed_eq,
    takeSeed_withStg]

/-! The engine's answer -/

/-- The bytes of a frame whose header is `hdr` (R286). -/
def sealedFrame (hdr ct : List Byte) (r m : Ctr) (tag : List Byte) : List Byte :=
  hdr ++ ct ++ bytes24 r ++ bytes24 m ++ tag ++ [Config.fmtAesGcm128]

/-- The block with that frame in FB. -/
def Block.withFrame (b : Block) (hdr ct : List Byte) (r m : Ctr) (tag : List Byte) : Block :=
  { b.writeFb 0 (sealedFrame hdr ct r m tag) with
    fbLen := BitVec.ofNat 9 (secureFl b.argIdLen.toNat ct.length + 1) }

/-- How SEC_ENCODE ends after the engine's answer: the code, and the block but for the slot file (R286, R285). -/
def Block.afterSeal (b : Block) (hdr : List Byte) (r m : Ctr) : Option (List Byte × List Byte) → ResultCode × Block
  | none => (.encryptionFailed, { b with fbLen := 0, draws := b.draws + 1 })
  | some (ct, tag) => (.ok, { b.withFrame hdr ct r m tag with draws := b.draws + 1 })

/-- The block when the engine has answered an encrypt request: the answer in `STG`, and the draw counted. -/
def Block.sealAnswered (b : Block) : Option (List Byte × List Byte) → Block
  | none => { b with draws := b.draws + 1, stg := { b.stg with failed := true } }
  | some (ct, tag) => { b with draws := b.draws + 1, stg := { b.stg with data := ct, tag := tag, failed := false } }

theorem answer_gcmEnc (e : Env) (s : State) (key : BitVec 128) (iv : BitVec 96) (ad pt : List Byte) :
    answer e s (.gcmEnc key iv ad pt) =
      { s with blk := s.blk.sealAnswered (gcmEncAnswer e s.blk.draws key iv ad pt) } := by
  cases h : gcmEncAnswer e s.blk.draws key iv ad pt <;> (simp only [answer, h]; rfl)

/-- The last step of SEC_ENCODE, `hdr` being the header for a ciphertext as long as the plaintext. -/
theorem secEncodeFinish_sealAnswered {b : Block} {hdr : List Byte} {ans : Option (List Byte × List Byte)}
    (hhdr : b.secHeader b.argSlot.toNat (nonceM b.stg.nonce) b.stg.data.length = hdr)
    (hlen : ∀ r ∈ ans, r.1.length = b.stg.data.length) : secEncodeFinish (b.sealAnswered ans) =
      .finish (b.afterSeal hdr (nonceR b.stg.nonce) (nonceM b.stg.nonce) ans).1
        ((b.afterSeal hdr (nonceR b.stg.nonce) (nonceM b.stg.nonce) ans).2.withStg (b.sealAnswered ans).stg) := by
  cases ans with
  | none => rfl
  | some r =>
    rw [← hlen r rfl] at hhdr
    rw [← hhdr]
    rfl

/-- The last two steps of SEC_ENCODE. -/
theorem runSteps_seal_eq {e : Env} {s : State} {key : BitVec 128} {iv : BitVec 96} {ad pt : List Byte}
    (hseal : secEncodeSeal s.blk = .ask (.gcmEnc key iv ad pt) s.blk) {ans : Option (List Byte × List Byte)}
    (hans : gcmEncAnswer e s.blk.draws key iv ad pt = ans) : runSteps e [secEncodeSeal, secEncodeFinish] s =
      State.complete { s with requests := s.requests ++ [.gcmEnc key iv ad pt] }
        (s.blk.afterSeal ad (nonceR iv) (nonceM iv) ans).1 (s.blk.afterSeal ad (nonceR iv) (nonceM iv) ans).2 := by
  have hlen : ∀ r ∈ ans, r.1.length = pt.length := fun _ hr => (lengths_of_gcmEncAnswer (hans.trans hr)).1
  rw [runSteps_ask e hseal, answer_gcmEnc]
  change runSteps e _ { s.issue _ s.blk with blk := s.blk.sealAnswered (gcmEncAnswer e s.blk.draws key iv ad pt) } = _
  rw [hans]
  cases hseal
  have hfinish := secEncodeFinish_sealAnswered rfl hlen
  exact (runSteps_finish e (s := { s.issue _ s.blk with blk := s.blk.sealAnswered _ }) hfinish).trans rfl

/-! How SEC_ENCODE ends -/

/-- The header of the frame that slot `k` sends next (R283). -/
def Block.nextHeader (e : Env) (k : Nat) (b : Block) : List Byte :=
  b.secHeader k (b.slot k).txMc (b.paddedBody e).length

theorem length_nextHeader (e : Env) (k : Nat) (b : Block) : (b.nextHeader e k).length = 4 + b.argIdLen.toNat := by
  rw [Block.nextHeader, Block.secHeader, length_headerBytes, length_bytesOf]

/-- The request for the body that slot `k` sends next. -/
def Block.sealRequest (e : Env) (k : Nat) (b : Block) : Request :=
  .gcmEnc (b.slot k).key (sendNonce e (b.slot k)) (b.nextHeader e k) (b.paddedBody e)

/-- The engine's answer to that request. -/
def Block.sealAnswer (e : Env) (k : Nat) (b : Block) : Option (List Byte × List Byte) :=
  gcmEncAnswer e (b.drawsAdvanced e k) (b.slot k).key (sendNonce e (b.slot k)) (b.nextHeader e k) (b.paddedBody e)

/-- The code SEC_ENCODE ends with, and the block it leaves, but for the slot file. -/
def Block.sealEnd (e : Env) (k : Nat) (b : Block) : ResultCode × Block :=
  Block.afterSeal { b with draws := b.drawsAdvanced e k } (b.nextHeader e k) (b.slot k).txRc (b.slot k).txMc
    (b.sealAnswer e k)

/-- With seed 0 the engine's failure is the next draw. -/
theorem sealEnd_of_seed_zero {e : Env} (h : e.mcSeedBits = 0) (k : Nat) (b : Block) : b.sealEnd e k =
    b.afterSeal (b.nextHeader e k) (b.slot k).txRc (b.slot k).txMc (gcmEncAnswer e b.draws (b.slot k).key
      (sendNonce e (b.slot k)) (b.nextHeader e k) (b.paddedBody e)) := by
  rw [Block.sealEnd, Block.sealAnswer, drawsAdvanced_of_seed_zero h]

/-- SEC_ENCODE advances the counters, and then ends by the engine's answer. -/
theorem secEncode_end {e : Env} {s : State} (h : s.blk.CanSeal e) {k : Nat} (hk : s.blk.argSlot.toNat = k) {seed : Ctr}
    (hseed : seed = (takeSeed e s.blk).1) : runSteps e (secEncodeRule e) s =
      s.slotEnd (s.blk.sealEnd e k).1 (s.blk.sealEnd e k).2 k ((s.blk.slot k).advancedBy seed)
        ((((s.blk.slot k).advanceWrite seed).map (.nvWrite k)).toList ++ [s.blk.sealRequest e k])
        ((s.blk.slot k).advanceWrite seed) := by
  have hlt : k < Config.pAssoc := hk ▸ h.lt
  rw [runSteps_secEncode h hk, ← hseed]
  set sl := s.blk.slot k with hsl
  set u := s.stored k (Block.setSlot { s.blk with stg := s.blk.toSeal e, draws := s.blk.drawsAdvanced e k } k
    (sl.advancedBy seed)) (sl.advanceWrite seed)
  obtain ⟨hkey, hid, -⟩ := advancedBy_sameIdentity sl seed
  have hslot : u.blk.slot k = sl.advancedBy seed := slot_setSlot_same _ hlt _
  have hargSlot : u.blk.argSlot.toNat = k := hk
  have hnonce : u.blk.stg.nonce = sendNonce e sl := by
    rw [hsl, ← hk]
    rfl
  have had : u.blk.secHeader k sl.txMc (s.blk.paddedBody e).length = s.blk.nextHeader e k := by
    rw [Block.secHeader, hslot, hid]
    rfl
  have hseal : secEncodeSeal u.blk = .ask (s.blk.sealRequest e k) u.blk := by
    rw [Block.sealRequest, ← had, secEncodeSeal, hargSlot, hslot, hkey, hnonce, sendNonce, nonceM_nonce]
    rfl
  rw [runSteps_seal_eq hseal (ans := s.blk.sealAnswer e k) rfl, sendNonce, nonceR_nonce, nonceM_nonce]
  simp only [State.slotEnd, Block.sealEnd, ← List.append_assoc]
  cases s.blk.sealAnswer e k <;> rfl

/-! The frame in FB -/

/-- The frame ends one byte past its length byte's count (R284). -/
theorem length_sealedFrame {hdr ct tag : List Byte} {n : Nat} (hhdr : hdr.length = 4 + n) (htag : tag.length = Config.tagBytes)
    (r m : Ctr) : (sealedFrame hdr ct r m tag).length = secureFl n ct.length + 1 := by
  simp only [sealedFrame, List.length_append, length_bytes24, List.length_singleton, hhdr, htag, secureFl, Config.tlSecure,
    Config.tagBytes]
  omega

theorem bufSlice_eq_of_getElem {F : Nat → Byte} {i : Nat} {l : List Byte}
    (h : ∀ (j : Nat) (hj : j < l.length), F (i + j) = l[j]) : bufSlice F i l.length = l :=
  List.ext_getElem (length_bufSlice ..) fun j hj hj' => (getElem_bufSlice F i l.length j hj).trans (h j hj')

/-- The bytes written into FB stand there. -/
theorem bufSlice_writeFb (e : Env) (b : Block) (l : List Byte) : bufSlice ((b.writeFb 0 l).fb e) 0 l.length = l :=
  bufSlice_eq_of_getElem fun j hj => (bufByte_writeFb e b 0 l _).trans ((dif_pos (by omega)).trans (by simp))

/-- The type byte of a secure frame (R283), in R286's words. -/
theorem ofBool_true_append (t : BitVec 7) : BitVec.ofBool true ++ t = (0x80 : Byte) ||| t.setWidth 8 := by
  decide +revert

/-- A command on this machine is that command with this machine's agents. -/
theorem exec_of_env {e : Env} {i : Instr} {s t : State} (h : execWith e i s = .next t) (he : e = Config.env) :
    exec i s = .next t := by
  rw [exec_eq_execWith, ← he, h]

/-- Settles O52: SEC_ENCODE's end by the engine's answer, with seed 0. -/
theorem secEncodeBuildsFrame : Obligations.SecEncodeBuildsFrame := by
  rintro e s k _ _ fl padded hdr iv hseed hk hlt rfl ho hx rfl hn ht ht' hpadded hlen hfl hfl' hhdr hiv
  obtain rfl : padded = s.blk.paddedBody e := hpadded
  have hcan : s.blk.CanSeal e := by
    subst hk hfl
    exact Block.CanSend.canSeal ⟨hlt, ho, hx⟩ hn ht ht' hlen hfl'
  obtain rfl := (ivBytes_send e _ iv).1 hiv
  have hheader : hdr = s.blk.nextHeader e k := by
    rw [hhdr, hfl, Block.nextHeader, Block.secHeader, headerBytes, ofBool_true_append, length_bytesOf]
    rfl
  have hend := secEncode_end hcan hk (seed := 0) (by simp [takeSeed, hseed])
  rw [sealEnd_of_seed_zero hseed, map_nvWrite_advanceWrite, Block.sealRequest, ← hheader] at hend
  have hwritten : ∀ rec ∈ (s.blk.slot k).advanceWrite 0, rec.length = Config.nvRecBytes :=
    fun _ => length_of_mem_advanceWrite
  refine ⟨_, _, _, rfl, exec_of_env rfl, rfl, rfl, fun hfail => ?failed, fun ct tag hok => ?sealed⟩
  case failed =>
    rw [hfail] at hend
    rw [ruleOf, hend]
    exact slotCommandEnds_slotEnd e s _ _ _ hlt rfl hwritten
  case sealed =>
    obtain ⟨hct, htag⟩ := lengths_of_gcmEncAnswer hok
    rw [← hct] at hfl
    have hframe := length_sealedFrame (ct := ct) (hheader ▸ length_nextHeader e k s.blk) htag (s.blk.slot k).txRc
      (s.blk.slot k).txMc
    rw [secureFl, Config.tlSecure, ← hfl] at hframe
    rw [hok] at hend
    rw [ruleOf, hend]
    refine ⟨?ends, ?frame, fun a ha => ?others⟩
    case ends =>
      rw [hfl]
      exact slotCommandEnds_slotEnd e s _ _ _ hlt rfl hwritten
    case frame =>
      rw [← hframe]
      exact bufSlice_writeFb e s.blk _
    case others => exact (bufByte_writeFb e s.blk 0 _ a).trans (dif_neg (by omega))

end Sys2Proof.Machine
end

section
/-! SUPPORT. SEC_DECODE (44_secureframe R290 to R296), for any agents and parameters: its failures (O53), and how it delivers a
body (O54). -/

namespace Sys2Proof.Machine

/-! The checks (R294) -/

/-- The secure AES-GCM frames, by the frame's bytes (R294): `tl = 23` says where `fl` puts the trailer. -/
theorem isSecureFrame_iff (F : Nat → Byte) : isSecureFrame F = true ↔
    (F 1).getLsbD 7 = true ∧ (F 0).toNat = frameTrlOff F + 22 ∧ F (F 0).toNat = 0x80 := by
  have htl : frameTl F = Config.tlSecure ↔ (F 0).toNat = frameTrlOff F + 22 := by
    unfold frameTl frameFl frameTrlOff Config.tlSecure
    omega
  rw [isSecureFrame, Bool.and_eq_true, Bool.and_eq_true, beq_iff_eq, beq_iff_eq, htl, and_assoc]
  rfl

/-- The slot of `ARG_SLOT` is there and open, and FB holds a valid secure frame. -/
structure Block.CanReceive (e : Env) (b : Block) : Prop where
  lt : b.argSlot.toNat < Config.pAssoc
  isOpen : (b.slot b.argSlot.toNat).isOpen = true
  valid : b.fbValid e = true
  secure : isSecureFrame (b.fb e) = true

/-- The frame's pair is fresh, too, so that the engine is asked. -/
structure Block.CanUnseal (e : Env) (b : Block) : Prop extends b.CanReceive e where
  fresh : (b.slot b.argSlot.toNat).fresh (trailerR (b.fb e)) (trailerM (b.fb e)) = true

/-- The request to the engine for the frame in FB, received on a slot (R294). -/
def Block.unsealRequest (e : Env) (b : Block) (sl : Slot) : Request :=
  .gcmDec sl.key (receiveNonce e sl (b.fb e)) (bufSlice (b.fb e) 0 (4 + frameIl (b.fb e)))
    (bufSlice (b.fb e) (frameBodyOff (b.fb e)) (frameBl (b.fb e))) (trailerTag (b.fb e))

/-- The engine's answer to that request. -/
def Block.unsealAnswer (e : Env) (b : Block) (sl : Slot) : Option (List Byte) :=
  gcmDecAnswer e sl.key (receiveNonce e sl (b.fb e)) (bufSlice (b.fb e) 0 (4 + frameIl (b.fb e)))
    (bufSlice (b.fb e) (frameBodyOff (b.fb e)) (frameBl (b.fb e))) (trailerTag (b.fb e))

section
variable {e : Env} {b : Block}

theorem secDecodeStart_of_malformed (hk : b.argSlot.toNat < Config.pAssoc) (ho : (b.slot b.argSlot.toNat).isOpen = true)
    (h : b.fbValid e = false ∨ isSecureFrame (b.fb e) = false) : secDecodeStart e b = .finish .malformedFrame b := by
  rw [secDecodeStart, withOpenSlot_of_open _ hk ho]
  cases hv : b.fbValid e
  · rfl
  · simp [h.resolve_left (by simp [hv])]

theorem secDecodeStart_of_stale (h : b.CanReceive e)
    (hf : (b.slot b.argSlot.toNat).fresh (trailerR (b.fb e)) (trailerM (b.fb e)) = false) :
    secDecodeStart e b = .finish .replayRejected b := by
  rw [secDecodeStart, withOpenSlot_of_open _ h.lt h.isOpen]
  simp [h.valid, h.secure, hf]

theorem secDecodeStart_of_canUnseal (h : b.CanUnseal e) :
    secDecodeStart e b = .ask (b.unsealRequest e (b.slot b.argSlot.toNat))
      (b.withStg ⟨receiveNonce e (b.slot b.argSlot.toNat) (b.fb e), [], [], false⟩) := by
  rw [secDecodeStart, withOpenSlot_of_open _ h.lt h.isOpen]
  simp only [h.valid, h.secure, h.fresh, Bool.not_true, Bool.false_eq_true, if_false]
  rfl

end

/-! The engine's answer -/

/-- What `STG` holds when the engine has answered a decrypt request. -/
def Staging.unsealed (g : Staging) : Option (List Byte) → Staging
  | none => { g with failed := true }
  | some pt => { g with data := pt, failed := false }

theorem answer_gcmDec (e : Env) (s : State) (key : BitVec 128) (iv : BitVec 96) (ad ct tag : List Byte) :
    answer e s (.gcmDec key iv ad ct tag) = s.withStg (s.blk.stg.unsealed (gcmDecAnswer e key iv ad ct tag)) := by
  cases h : gcmDecAnswer e key iv ad ct tag <;> (simp only [answer, h]; rfl)

/-- The state when SEC_DECODE has asked the engine and `STG` holds `g`. -/
def State.unsealAsked (e : Env) (s : State) (sl : Slot) (g : Staging) : State :=
  { s with blk := s.blk.withStg g, requests := s.requests ++ [s.blk.unsealRequest e sl] }

section
variable {e : Env} {b : Block}

theorem secDecodeCommit_of_failed (h : b.stg.failed = true) :
    secDecodeCommit e b = .finish .authenticationFailed b := if_pos h

theorem secDecodeCommit_of_badPadding (hok : b.stg.failed = false) (h : unpad b.stg.data = none) :
    secDecodeCommit e b = .finish .paddingInvalid b := by
  rw [secDecodeCommit, if_neg (by simp [hok]), h]

theorem secDecodeCommit_of_unpad {body : List Byte} (hok : b.stg.failed = false) (h : unpad b.stg.data = some body) :
    secDecodeCommit e b = commitTurn b.argSlot.toNat (trailerR (b.fb e)) (trailerM (b.fb e))
      (b.withStg { b.stg with data := body }) := by
  rw [secDecodeCommit, if_neg (by simp [hok]), h]
  rfl

end

/-! How SEC_DECODE ends -/

/-- The block with the body in PB and the frame's fields in `D_*` (R294, R296). -/
def Block.delivered (e : Env) (b : Block) (body : List Byte) : Block :=
  { b.writePb body with pbLen := BitVec.ofNat 9 body.length, dec := decodeFields (b.fb e) }

section
variable {e : Env} {s : State} (h : s.blk.CanUnseal e) {sl : Slot} (hsl : sl = s.blk.slot s.blk.argSlot.toNat)
include h hsl

/-- SEC_DECODE of a fresh frame up to the engine's answer. -/
theorem runSteps_secDecode : ∃ g : Staging, runSteps e (secDecodeRule e) s =
    runSteps e [secDecodeCommit e, secDecodeFinish e] (s.unsealAsked e sl (g.unsealed (s.blk.unsealAnswer e sl))) := by
  subst hsl
  refine ⟨⟨receiveNonce e (s.blk.slot s.blk.argSlot.toNat) (s.blk.fb e), [], [], false⟩, ?_⟩
  rw [secDecodeRule, runSteps_ask e (secDecodeStart_of_canUnseal h), Block.unsealRequest, answer_gcmDec]
  rfl

theorem secDecode_end_unauthentic (ha : s.blk.unsealAnswer e sl = none) : runSteps e (secDecodeRule e) s =
    { Completed s .authenticationFailed s.blk with requests := s.requests ++ [s.blk.unsealRequest e sl] } := by
  obtain ⟨g, hrun⟩ := runSteps_secDecode h hsl
  rw [hrun, ha]
  exact (runSteps_finish e (s := s.unsealAsked e sl (g.unsealed none)) (secDecodeCommit_of_failed rfl)).trans rfl

theorem secDecode_end_badPadding {pt : List Byte} (ha : s.blk.unsealAnswer e sl = some pt) (hpt : unpad pt = none) :
    runSteps e (secDecodeRule e) s =
      { Completed s .paddingInvalid s.blk with requests := s.requests ++ [s.blk.unsealRequest e sl] } := by
  obtain ⟨g, hrun⟩ := runSteps_secDecode h hsl
  rw [hrun, ha]
  exact (runSteps_finish e (s := s.unsealAsked e sl (g.unsealed (some pt)))
    (secDecodeCommit_of_badPadding rfl hpt)).trans rfl

/-- The body is delivered after the pair is recorded (R294). -/
theorem secDecode_end_delivered {pt body : List Byte} (ha : s.blk.unsealAnswer e sl = some pt) (hpt : unpad pt = some body)
    {k : Nat} (hk : s.blk.argSlot.toNat = k) {sl' : Slot}
    (hsl' : sl' = sl.recordPair (trailerR (s.blk.fb e)) (trailerM (s.blk.fb e))) :
    runSteps e (secDecodeRule e) s = s.slotEnd .ok (s.blk.delivered e body) k sl'
      [s.blk.unsealRequest e sl, .nvWrite k sl'.record] (some sl'.record) := by
  obtain ⟨g, hrun⟩ := runSteps_secDecode h hsl
  subst hk
  rw [hrun, ha, hsl', hsl]
  have hcommit := secDecodeCommit_of_unpad (e := e) (b := s.blk.withStg (g.unsealed (some pt))) rfl hpt
  rw [runSteps_commitTurn e (s := s.unsealAsked e _ (g.unsealed (some pt))) _ hcommit,
    runSteps_finish e (f := secDecodeFinish e) rfl]
  refine Eq.trans ?_ (slotEnd_after s .ok _ (s.blk.delivered e body) (s.blk.withStg (g.unsealed (some pt))) .empty _
    [s.blk.unsealRequest e _] [.nvWrite _ _] _)
  rfl

end

/-- The bytes written into PB stand there. -/
theorem bufSlice_writePb (e : Env) (b : Block) (l : List Byte) : bufSlice ((b.writePb l).pb e) 0 l.length = l := by
  refine bufSlice_eq_of_getElem fun j hj => ?_
  exact (bufByte_writePb e b l _).trans ((dif_pos (by omega)).trans (by simp))

/-! The statements -/

/-- The frame's fields and the IV in the words of the statements, from raw bytes (41_framecodec R187, R290, R291). -/
theorem fields_of_bytes {e : Env} {sl : Slot} {F : Nat → Byte} {n b tr : Nat} {R M : Ctr} {iv : BitVec 96}
    (hn : n = (F 2).toNat % 16) (hb : b = (F (3 + n)).toNat) (htr : tr = 4 + n + b)
    (hR : R = F tr ++ F (tr + 1) ++ F (tr + 2)) (hM : M = F (tr + 3) ++ F (tr + 4) ++ F (tr + 5))
    (hiv : IvBytes e.dirForce (fun j => if j < n then F (3 + j) else getByte sl.nodeId j) R M (decide (sl.role = .sink)) iv) :
    (n = frameIl F ∧ b = frameBl F ∧ tr = frameTrlOff F) ∧ R = trailerR F ∧ M = trailerM F ∧ iv = receiveNonce e sl F := by
  rw [← frameIl_eq_mod] at hn
  subst hn hb htr hR hM
  exact ⟨⟨rfl, rfl, rfl⟩, rfl, rfl, (ivBytes_receive e sl F iv).1 hiv⟩

/-- Settles O53: each check's failure ends the command as it began. -/
theorem secDecodeFailuresChangeNothing : Obligations.SecDecodeFailuresChangeNothing := by
  refine ⟨fun s => exec_eq_execWith .secDecode s, ?_⟩
  rintro e s _ _ _ n b tr R M iv _ _ _ rfl hk rfl ho rfl hn hb htr hR hM hiv rfl rfl rfl
  obtain ⟨⟨rfl, rfl, rfl⟩, rfl, rfl, rfl⟩ := fields_of_bytes hn hb htr hR hM hiv
  refine ⟨fun hbad => ?malformed, fun hvalid hsec hfl hfmt => ?_⟩
  case malformed =>
    refine congrArg Host.Outcome.next (runSteps_finish e (secDecodeStart_of_malformed hk ho ?_))
    rw [← Bool.not_eq_true (isSecureFrame _), isSecureFrame_iff]
    by_contra! hgood
    obtain ⟨hvalid, hsec, hfl, hfmt⟩ := hgood
    rcases hbad with h | h | h | h
    exacts [hvalid h, Bool.false_ne_true (h.symm.trans hsec), h hfl, h hfmt]
  have hrec : s.blk.CanReceive e := ⟨hk, ho, hvalid, (isSecureFrame_iff _).2 ⟨hsec, hfl, hfmt⟩⟩
  refine ⟨fun hstale => congrArg Host.Outcome.next (runSteps_finish e (secDecodeStart_of_stale hrec hstale)),
    fun hfresh => ?_⟩
  have hask : s.blk.CanUnseal e := ⟨hrec, hfresh⟩
  exact ⟨fun ha => congrArg Host.Outcome.next (secDecode_end_unauthentic hask rfl ha),
    fun pt ha hpt => congrArg Host.Outcome.next (secDecode_end_badPadding hask rfl ha hpt)⟩

/-- Settles O54: the end of SEC_DECODE as a slot command, with the body in PB. -/
theorem secDecodeDeliversBody : Obligations.SecDecodeDeliversBody := by
  rintro e s _ _ sl' _ n b tr R M iv _ _ _ pt body rfl hk rfl ho rfl hn hb htr hR hM hiv rfl rfl rfl hvalid hsec hfl hfmt hfresh
    ha hpt hsl'
  obtain ⟨⟨rfl, rfl, rfl⟩, rfl, rfl, rfl⟩ := fields_of_bytes hn hb htr hR hM hiv
  have hask : s.blk.CanUnseal e := ⟨⟨hk, ho, hvalid, (isSecureFrame_iff _).2 ⟨hsec, hfl, hfmt⟩⟩, hfresh⟩
  have hend := secDecode_end_delivered hask rfl ha hpt rfl hsl'
  obtain ⟨-, hslots, -, hrecords⟩ := slotCommandEnds_slotEnd e s .ok (b := s.blk.delivered e body) sl'
    [s.blk.unsealRequest e _, .nvWrite _ sl'.record] (written := some sl'.record) hk rfl length_of_mem_record
  refine ⟨_, congrArg Host.Outcome.next hend, exec_of_env (congrArg Host.Outcome.next hend), rfl, hslots, hrecords, ?body,
    fun a ha => ?others⟩
  case body => exact bufSlice_writePb e s.blk body
  case others => exact (bufByte_writePb e s.blk body a).trans (dif_neg (by unfold pbBase; omega))

end Sys2Proof.Machine
end

section
/-! SUPPORT. The secure round trip (44_secureframe R295): where the parts of the frame SEC_ENCODE builds stand, what SEC_DECODE
reads of them, and that it gives the body back (O55). -/

namespace Sys2Proof.Machine

/-! Bytes that stand in a buffer -/

/-- The bytes of `l` stand in `F` from index `i` on. -/
def HoldsAt (F : Nat → Byte) (i : Nat) (l : List Byte) : Prop := bufSlice F i l.length = l

theorem bufSlice_add (F : Nat → Byte) (i n m : Nat) : bufSlice F i (n + m) = bufSlice F i n ++ bufSlice F (i + n) m := by
  simp [bufSlice, List.range_add, Function.comp_def, Nat.add_assoc]

theorem holdsAt_append {F : Nat → Byte} {i : Nat} {l l' : List Byte} :
    HoldsAt F i (l ++ l') ↔ HoldsAt F i l ∧ HoldsAt F (i + l.length) l' := by
  rw [HoldsAt, List.length_append, bufSlice_add]
  exact ⟨fun h => List.append_inj h (length_bufSlice ..), fun ⟨h, h'⟩ => congrArg₂ _ h h'⟩

theorem HoldsAt.getElem {F : Nat → Byte} {i : Nat} {l : List Byte} (h : HoldsAt F i l) (j : Nat) (hj : j < l.length) :
    F (i + j) = l[j] := by
  rw [← getElem_bufSlice F i l.length j (by simpa using hj)]
  congr 1

theorem HoldsAt.congr {F G : Nat → Byte} {i : Nat} {l : List Byte} (h : HoldsAt F i l)
    (hG : ∀ j : Nat, j < l.length → G (i + j) = F (i + j)) : HoldsAt G i l :=
  (List.map_congr_left fun j hj => hG j (List.mem_range.1 hj)).trans h

/-- A counter read from the three bytes that hold it (20_memory R84). -/
theorem HoldsAt.be24_eq {F : Nat → Byte} {i : Nat} {v : Ctr} (h : HoldsAt F i (bytes24 v)) :
    be24 (F i) (F (i + 1)) (F (i + 2)) = v := by
  have h0 : F i = getByte v 0 := h.getElem 0 (by simp)
  have h1 : F (i + 1) = getByte v 1 := h.getElem 1 (by simp)
  have h2 : F (i + 2) = getByte v 2 := h.getElem 2 (by simp)
  rw [h0, h1, h2, be24_getByte]

/-! The frame -/

/-- A secure frame stands in `F`, one that a receiver takes: of a legal type, with at most 8 ID bytes, and whose length byte
counts its bytes (R283, R284, R286). -/
structure SecureFrameAt (F : Nat → Byte) (t : BitVec 7) (q : BitVec 4) (ids ct : List Byte) (r m : Ctr) (tag : List Byte) :
    Prop where
  bytes : HoldsAt F 0 (sealedFrame (headerBytes (secureFl ids.length ct.length) true t q ids ct.length) ct r m tag)
  type : reservedType t = false
  idLen : ids.length ≤ 8
  tagLen : tag.length = Config.tagBytes
  fits : secureFl ids.length ct.length ≤ 255

namespace SecureFrameAt

section
variable {F : Nat → Byte} {t : BitVec 7} {q : BitVec 4} {ids ct : List Byte} {r m : Ctr} {tag : List Byte}
  (h : SecureFrameAt F t q ids ct r m tag)
include h

/-- Where the parts of the frame stand. -/
theorem parts : HoldsAt F 0 (headerBytes (secureFl ids.length ct.length) true t q ids ct.length) ∧
    HoldsAt F (4 + ids.length) ct ∧ HoldsAt F (4 + ids.length + ct.length) (bytes24 r) ∧
    HoldsAt F (4 + ids.length + ct.length + 3) (bytes24 m) ∧ HoldsAt F (4 + ids.length + ct.length + 6) tag ∧
    F (4 + ids.length + ct.length + 22) = Config.fmtAesGcm128 := by
  have hbytes := h.bytes
  simp only [sealedFrame, holdsAt_append, List.length_append, length_headerBytes, length_bytes24, h.tagLen, Config.tagBytes,
    Nat.zero_add] at hbytes
  obtain ⟨⟨⟨⟨⟨hhdr, hct⟩, hr⟩, hm⟩, htag⟩, hfmt⟩ := hbytes
  exact ⟨hhdr, hct, hr, hm, htag, hfmt.getElem 0 (by simp)⟩

theorem headerAt : HeaderAt F (secureFl ids.length ct.length) true t q ids ct.length := by
  obtain ⟨hhdr, -⟩ := h.parts
  exact headerAt_of_headerBytes fun i hi => by simpa using hhdr.getElem i hi

theorem frameFl_eq : frameFl F = secureFl ids.length ct.length := h.headerAt.frameFl_eq h.fits

theorem frameIl_eq : frameIl F = ids.length := h.headerAt.frameIl_eq (h.idLen.trans (by decide))

theorem ctLen_le : ct.length ≤ 255 := by
  have hfits := h.fits
  unfold secureFl at hfits
  omega

theorem frameBl_eq : frameBl F = ct.length := h.headerAt.frameBl_eq (h.idLen.trans (by decide)) h.ctLen_le

theorem frameTrlOff_eq : frameTrlOff F = 4 + ids.length + ct.length := by rw [frameTrlOff, h.frameIl_eq, h.frameBl_eq]

theorem trailerR_eq : trailerR F = r := by
  obtain ⟨-, -, hr, -⟩ := h.parts
  rw [trailerR, h.frameTrlOff_eq, hr.be24_eq]

theorem trailerM_eq : trailerM F = m := by
  obtain ⟨-, -, -, hm, -⟩ := h.parts
  rw [trailerM, h.frameTrlOff_eq]
  exact hm.be24_eq

theorem trailerTag_eq : trailerTag F = tag := by
  obtain ⟨-, -, -, -, htag, -⟩ := h.parts
  rw [trailerTag, h.frameTrlOff_eq, ← h.tagLen]
  exact htag

theorem header_eq : bufSlice F 0 (4 + frameIl F) = headerBytes (secureFl ids.length ct.length) true t q ids ct.length := by
  obtain ⟨hhdr, -⟩ := h.parts
  rw [h.frameIl_eq, ← length_headerBytes (secureFl ids.length ct.length) true t q ids ct.length]
  exact hhdr

theorem body_eq : bufSlice F (frameBodyOff F) (frameBl F) = ct := by
  obtain ⟨-, hct, -⟩ := h.parts
  rw [frameBodyOff, h.frameIl_eq, h.frameBl_eq]
  exact hct

/-- The last byte is the format indicator. -/
theorem last_eq : F (frameFl F) = Config.fmtAesGcm128 := by
  obtain ⟨-, -, -, -, -, hfmt⟩ := h.parts
  have hfl : secureFl ids.length ct.length = 4 + ids.length + ct.length + 22 := by
    unfold secureFl Config.tlSecure
    omega
  rw [h.frameFl_eq, hfl, hfmt]

theorem isSecureFrame_eq : isSecureFrame F = true := by
  refine (isSecureFrame_iff F).2 ⟨h.headerAt.frameSec_eq, ?_, h.last_eq⟩
  have hfl := h.frameFl_eq
  rw [frameFl, secureFl, Config.tlSecure] at hfl
  rw [h.frameTrlOff_eq]
  omega

/-- The frame passes the structural check of a receiver that takes its length. -/
theorem validateStructure_eq {L maxfl : Nat} (hL : secureFl ids.length ct.length + 1 ≤ L) (hmax : frameFl F ≤ maxfl) :
    validateStructure F L maxfl = true := by
  have hid := h.idLen
  rw [validateStructure_iff, h.last_eq, h.headerAt.frameSec_eq, h.headerAt.frameTypeOf_eq, h.frameIl_eq, h.frameBl_eq]
  rw [h.frameFl_eq] at hmax ⊢
  unfold secureFl Config.tlSecure at *
  exact ⟨by omega, h.type, by omega, by omega, nofun, by decide, by decide⟩

/-- The frame is read from its own bytes only. -/
theorem congr {G : Nat → Byte} (hG : ∀ i : Nat, i < secureFl ids.length ct.length + 1 → G i = F i) :
    SecureFrameAt G t q ids ct r m tag := by
  refine { h with bytes := h.bytes.congr fun j hj => ?_ }
  rw [length_sealedFrame (length_headerBytes ..) h.tagLen] at hj
  exact hG _ (by omega)

/-- The receiver's nonce is the sender's: the ID bytes not in the header are pre-shared, and the roles are opposite
(42_nonce R224). -/
theorem receiveNonce_eq (e : Env) {sl sl' : Slot} {n : Nat} (hids : ids = bytesOf sl.nodeId 0 n) (hr : r = sl.txRc)
    (hm : m = sl.txMc) (hid : sl'.nodeId = sl.nodeId) (hrole : sl'.role ≠ sl.role) :
    receiveNonce e sl' F = sendNonce e sl := by
  have hbyte : (fun j => if j < frameIl F then F (3 + j) else getByte sl'.nodeId j) = getByte sl.nodeId := by
    funext j
    rw [h.frameIl_eq, hid]
    split_ifs with hj
    · rw [h.headerAt.idBytes j hj, List.getElem_of_eq hids hj, getElem_bytesOf, Nat.zero_add]
    · rfl
  have hdir : decide (sl'.role = .sink) = decide (sl.role = .source) := by
    revert hrole
    cases sl.role <;> cases sl'.role <;> decide
  refine ((ivBytes_receive e sl' F _).1 ?_).symm
  rw [hbyte, hdir, h.trailerR_eq, h.trailerM_eq, hr, hm]
  exact (ivBytes_send e sl _).2 rfl

end

end SecureFrameAt

/-! SEC_ENCODE, then SEC_DECODE -/

/-- An engine whose encryptions do not fail answers what it computes. -/
theorem gcmEncAnswer_of_ok {e : Env} (h : GcmAnswersOk e) (draw : Nat) (key : BitVec 128) (iv : BitVec 96)
    (ad pt : List Byte) : gcmEncAnswer e draw key iv ad pt = some (e.gcmEnc key iv ad pt) := by
  obtain ⟨hlen, hok⟩ := h
  rw [gcmEncAnswer, hok, if_neg Bool.false_ne_true, if_pos (hlen key iv ad pt)]

/-- A correct engine decrypts what it encrypted. -/
theorem gcmDecAnswer_of_gcmEnc {e : Env} (h : GcmCorrect e) {key : BitVec 128} {iv : BitVec 96} {ad pt ct tag : List Byte}
    (henc : e.gcmEnc key iv ad pt = (ct, tag)) (hlen : ct.length = pt.length) :
    gcmDecAnswer e key iv ad ct tag = some pt := by
  rw [gcmDecAnswer, (h key iv ad pt ct tag).2 henc]
  exact if_pos hlen.symm

/-- SEC_ENCODE completes with the frame in FB. -/
theorem secEncode_sends {e : Env} (hgcm : GcmAnswersOk e) {s t : State} (ht : t = runSteps e (secEncodeRule e) s) {b : Block}
    (hb : s.blk = b) (hcan : b.CanSeal e) {sl : Slot} (hsl : b.slot b.argSlot.toNat = sl) {ids : List Byte}
    (hids : ids = bytesOf sl.nodeId 0 b.argIdLen.toNat) : ∃ q ct tag, ct.length = (b.paddedBody e).length ∧
    e.gcmEnc sl.key (sendNonce e sl) (headerBytes (secureFl ids.length ct.length) true b.frameType q ids ct.length)
      (b.paddedBody e) = (ct, tag) ∧
    SecureFrameAt (t.blk.fb e) b.frameType q ids ct sl.txRc sl.txMc tag ∧
    t.result = .ok ∧ t.blk.fbLen = BitVec.ofNat 9 (secureFl ids.length ct.length + 1) := by
  subst hb hsl
  obtain ⟨ct, tag, henc⟩ : ∃ ct tag, e.gcmEnc (s.blk.slot s.blk.argSlot.toNat).key 
      (sendNonce e (s.blk.slot s.blk.argSlot.toNat))
    (s.blk.nextHeader e s.blk.argSlot.toNat) (s.blk.paddedBody e) = (ct, tag) := ⟨_, _, rfl⟩
  have hans : s.blk.sealAnswer e s.blk.argSlot.toNat = some (ct, tag) :=
    (gcmEncAnswer_of_ok hgcm _ _ _ _ _).trans (congrArg some henc)
  obtain ⟨hct, htag⟩ := lengths_of_gcmEncAnswer hans
  have hlen : ids.length = s.blk.argIdLen.toNat := by rw [hids, length_bytesOf]
  have hhdr : s.blk.nextHeader e s.blk.argSlot.toNat = headerBytes (secureFl ids.length ct.length) true s.blk.frameType
      ((s.blk.slot s.blk.argSlot.toNat).txMc.extractLsb' 0 4) ids ct.length := by
    rw [Block.nextHeader, Block.secHeader, hlen, hct, hids]
  have hfits := hcan.fits
  rw [Bool.eq_false_iff, Ne, secEncodeTooLong_iff] at hfits
  push Not at hfits
  obtain ⟨hn, htype, htype', -, hfl⟩ := hfits
  rw [ht, secEncode_end hcan rfl rfl, Block.sealEnd, hans, hhdr]
  rw [hhdr] at henc
  rw [← hlen] at hn hfl
  rw [← hct] at hfl
  refine ⟨_, ct, tag, hct, henc, ?frame, rfl, by rw [hlen]; rfl⟩
  exact ⟨bufSlice_writeFb e s.blk _, (reservedType_eq_false_iff _).2 ⟨htype, htype'⟩, hn, htag, hfl⟩

/-- Settles O55: the receiver reads of the frame what the sender put into it, and so asks the engine to undo its encryption. -/
theorem secureFrameRoundTrip : Obligations.SecureFrameRoundTrip := by
  rintro e s u t _ _ hcorrect hgcm rfl hk ho hx hn ht ht' hpbl hend rfl hd hdo hkey hid hrole hfresh hlen hcopied hmax
  have hbody : (bufSlice (s.blk.pb e) 0 s.blk.pbl).length = s.blk.pbl := length_bufSlice ..
  obtain ⟨hfits, -⟩ := secureFrameSizes _ _ s.blk.pad31 _ hbody hn
  obtain ⟨hbl, hfl⟩ := hfits.2 (by split_ifs <;> omega)
  have hcan : s.blk.CanSeal e := Block.CanSend.canSeal ⟨hk, ho, hx⟩ hn ht ht' hbl hfl
  generalize hsl : s.blk.slot s.blk.argSlot.toNat = sl at *
  obtain ⟨ids, hids⟩ : ∃ ids, ids = bytesOf sl.nodeId 0 s.blk.argIdLen.toNat := ⟨_, rfl⟩
  obtain ⟨q, ct, tag, hct, henc, hsent, hok, hfbLen⟩ := secEncode_sends (b := s.blk) hgcm hend rfl hcan hsl hids
  have hfits := hsent.fits
  have hlen' : t.blk.fbLen.toNat = secureFl ids.length ct.length + 1 := by
    rw [hfbLen]
    exact Nat.mod_eq_of_lt (by omega)
  have hfbl : u.blk.fbl = secureFl ids.length ct.length + 1 := fbl_of_fbLen (hlen.trans hfbLen) (by omega)
  have hreceived := hsent.congr fun i hi => hcopied i (by omega)
  have hmaxFl : frameFl (u.blk.fb e) ≤ u.blk.maxFl.toNat := by
    rwa [hreceived.frameFl_eq, ← hsent.frameFl_eq]
  have hask : u.blk.CanUnseal e :=
    ⟨⟨hd, hdo, hreceived.validateStructure_eq hfbl.ge hmaxFl, hreceived.isSecureFrame_eq⟩, by
      rwa [hreceived.trailerR_eq, hreceived.trailerM_eq]⟩
  have hanswer : u.blk.unsealAnswer e (u.blk.slot u.blk.argSlot.toNat) = some (s.blk.paddedBody e) := by
    rw [Block.unsealAnswer, hreceived.receiveNonce_eq e hids rfl rfl hid hrole, hkey, hreceived.header_eq, hreceived.body_eq,
      hreceived.trailerTag_eq]
    exact gcmDecAnswer_of_gcmEnc hcorrect henc hct
  have hdecode := secDecode_end_delivered (s := u.startCommand (encodeByte .secDecode)) hask rfl hanswer (unpad_pad _ _) rfl rfl
  rw [commandEnd, ruleOf, hdecode]
  refine ⟨hok, rfl, ?pbLen, ?body⟩
  case pbLen =>
    refine (congrArg (fun n => (BitVec.ofNat 9 n).toNat) hbody).trans (Nat.mod_eq_of_lt ?_)
    omega
  case body =>
    have hpb := bufSlice_writePb e u.blk (bufSlice (s.blk.pb e) 0 s.blk.pbl)
    rw [hbody] at hpb
    exact hpb

end Sys2Proof.Machine
end

section
/-! SUPPORT. The life of a command (45_system R320 to R327): how a rule ends as a function of what its steps work on, the end of a
command along an interleaving (O58), the start and the end of a command (O3, O7, O8, O22), and how few events complete it (O59). -/

namespace Sys2Proof.Machine

/-! What a rule works on, and what its end leaves -/

/-- The state with what the rules and the agents work on taken from `w`: the block, the NV records and the list of requests. -/
def State.withWork (s w : State) : State := { s with blk := w.blk, nv := w.nv, requests := w.requests }

/-- The state completed as `t` is, with what is the sequencer's and the Host's kept. -/
def State.endedAs (s t : State) : State := { s.withWork t with phase := .idle, done := true, result := t.result }

/-- The state with what the Host's accesses to a busy block change: `WERR` and the last byte read. -/
def State.withPort (s : State) (werr : Bool) (rdata : Byte) : State := { s with werr := werr, rdata := rdata }

section
variable (e : Env)

theorem answer_withWork (s w : State) (q : Request) : answer e (s.withWork w) q = s.withWork (answer e w q) := by
  cases q with
  | nvRead k => rfl
  | nvWrite k rec => rfl
  | gcmEnc key iv ad pt =>
    simp only [answer, State.withWork]
    split <;> rfl
  | gcmDec key iv ad ct tag =>
    simp only [answer, State.withWork]
    split <;> rfl

theorem answer_eq_withWork (s : State) (q : Request) : answer e s q = s.withWork (answer e s q) :=
  answer_withWork e s s q

theorem answer_phase (s : State) (p : Phase) (q : Request) :
    answer e { s with phase := p } q = { answer e s q with phase := p } := by
  rw [answer_eq_withWork e s q]
  exact answer_withWork e { s with phase := p } s q

theorem answer_withPort (s : State) (werr : Bool) (rdata : Byte) (q : Request) :
    answer e (s.withPort werr rdata) q = (answer e s q).withPort werr rdata := by
  rw [answer_eq_withWork e s q]
  exact answer_withWork e (s.withPort werr rdata) s q

/-- How a rule ends depends on what it works on only, and it keeps the rest of the state but the completion (R323). -/
theorem runSteps_withWork (rule : Rule) (s w : State) :
    runSteps e rule (s.withWork w) = s.endedAs (runSteps e rule w) := by
  induction rule generalizing w with
  | nil => rfl
  | cons f rest ih =>
    rw [runSteps_cons, runSteps_cons]
    show (f w.blk).resume e rest (s.withWork w) = _
    cases f w.blk with
    | finish c b => rfl
    | go b => exact ih { w with blk := b }
    | ask q b => exact (congrArg (runSteps e rest) (answer_withWork e s (w.issue q b) q)).trans (ih _)

theorem runSteps_eq_endedAs (rule : Rule) (s : State) : runSteps e rule s = s.endedAs (runSteps e rule s) :=
  runSteps_withWork e rule s s

theorem runSteps_phase (rule : Rule) (s : State) (p : Phase) :
    runSteps e rule { s with phase := p } = runSteps e rule s :=
  (runSteps_withWork e rule { s with phase := p } s).trans (runSteps_eq_endedAs e rule s).symm

theorem runSteps_withPort (rule : Rule) (s : State) (werr : Bool) (rdata : Byte) :
    runSteps e rule (s.withPort werr rdata) = (runSteps e rule s).withPort werr rdata := by
  rw [runSteps_eq_endedAs e rule s]
  exact runSteps_withWork e rule (s.withPort werr rdata) s

end

/-! The rest of a command, and what an event leaves of it -/

theorem phase_of_isBusy {s : State} (h : s.isBusy = true) : ∃ op n req, s.phase = .busy op n req := by
  cases hp : s.phase with
  | idle => rw [isBusy_idle hp] at h; cases h
  | busy op n req => exact ⟨op, n, req, rfl⟩

theorem phase_of_not_isBusy {s : State} (h : s.isBusy = false) : s.phase = .idle := by
  cases hp : s.phase with
  | idle => rfl
  | busy op n req => rw [isBusy_busy hp] at h; cases h

section
variable (e : Env) {s : State}

theorem resume_idle (h : s.phase = .idle) : resume e s = s := by simp [resume, h]

theorem resume_unasked {op : Byte} {n : Nat} (h : s.phase = .busy op n none) :
    resume e s = runSteps e ((opcodeRule e op).drop n) s := by simp [resume, h]

theorem resume_asked {op : Byte} {n : Nat} {q : Request} (h : s.phase = .busy op n (some q)) :
    resume e s = runSteps e ((opcodeRule e op).drop n) (answer e s q) := by simp [resume, h]

theorem resume_withPort (s : State) (werr : Bool) (rdata : Byte) :
    resume e (s.withPort werr rdata) = (resume e s).withPort werr rdata := by
  cases hp : s.phase with
  | idle => rw [resume_idle e hp, resume_idle e (s := s.withPort werr rdata) hp]
  | busy op n req =>
    cases req with
    | none => rw [resume_unasked e hp, resume_unasked e (s := s.withPort werr rdata) hp, runSteps_withPort]
    | some q => rw [resume_asked e hp, resume_asked e (s := s.withPort werr rdata) hp, answer_withPort, runSteps_withPort]

/-- The rest of a command keeps `WERR` and the last byte read. -/
theorem resume_eq_withPort (s : State) : resume e s = (resume e s).withPort s.werr s.rdata :=
  resume_withPort e s s.werr s.rdata

theorem resume_werr (s : State) : (resume e s).werr = s.werr := by
  rw [resume_eq_withPort]
  rfl

/-- A step of a rule and then the rest of the rule are the rule. -/
theorem resume_stepRule (op : Byte) (n : Nat) (s : State) :
    resume e (stepRule (opcodeRule e op) op n s) = runSteps e ((opcodeRule e op).drop n) s := by
  unfold stepRule
  cases hf : (opcodeRule e op)[n]? with
  | none =>
    rw [List.drop_eq_nil_of_le (List.getElem?_eq_none_iff.1 hf)]
    rfl
  | some f =>
    obtain ⟨hn, rfl⟩ := List.getElem?_eq_some_iff.1 hf
    rw [List.drop_eq_getElem_cons hn, runSteps_cons]
    dsimp only
    cases (opcodeRule e op)[n] s.blk with
    | finish c b => rfl
    | go b => exact runSteps_phase e _ { s with blk := b } _
    | ask q b =>
      exact (congrArg (runSteps e _) (answer_phase e (s.issue q b) _ q)).trans (runSteps_phase e _ _ _)

theorem resume_coreStep (s : State) : resume e (coreStep e s) = resume e s := by
  unfold coreStep
  split
  next op n hp => rw [resume_stepRule, resume_unasked e hp]
  next => rfl

theorem resume_agentAnswer (nv : Bool) (s : State) : resume e (agentAnswer e nv s) = resume e s := by
  unfold agentAnswer
  split
  next op n q hp =>
    split_ifs
    · rw [resume_asked e hp]
      exact runSteps_phase e _ (answer e s q) _
    · rfl
  next => rfl

theorem coreStep_werr (s : State) : (coreStep e s).werr = s.werr := by
  rw [← resume_werr e (coreStep e s), resume_coreStep, resume_werr]

theorem agentAnswer_werr (nv : Bool) (s : State) : (agentAnswer e nv s).werr = s.werr := by
  rw [← resume_werr e (agentAnswer e nv s), resume_agentAnswer, resume_werr]

end

/-! The end of a command along an interleaving -/

/-- The event is a Host write. -/
def Event.isWrite : Event → Bool
  | .write _ _ => true
  | _ => false

theorem hostWrite_isBusy {s : State} (h : s.isBusy = true) (a : HostAddr) (v : Byte) :
    s.hostWrite a v = s.withPort true s.rdata := by
  obtain ⟨op, n, req, hp⟩ := phase_of_isBusy h
  exact hostWrite_busy hp a v

/-- An event while BUSY sets `WERR` exactly if it is a write (20_memory R86). -/
theorem eventStep_werr {s : State} (h : s.isBusy = true) (ev : Event) :
    (eventStep ev s).werr = (s.werr || ev.isWrite) := by
  cases ev with
  | write a v => rw [eventStep, hostWrite_isBusy h]; exact (Bool.or_true _).symm
  | core => exact (coreStep_werr _ s).trans (Bool.or_false _).symm
  | nvAnswer => exact (agentAnswer_werr _ true s).trans (Bool.or_false _).symm
  | gcmAnswer => exact (agentAnswer_werr _ false s).trans (Bool.or_false _).symm
  | read | run | reset | provision => exact (Bool.or_false _).symm

/-- What an event while BUSY leaves of the command ends as the command would have, but for `WERR` and the last byte read. -/
theorem resume_eventStep {s : State} (h : s.isBusy = true) (ev : Event) :
    resume Config.env (eventStep ev s) =
      (resume Config.env s).withPort (eventStep ev s).werr (eventStep ev s).rdata := by
  have same {u : State} (hu : resume Config.env u = resume Config.env s) :
      resume Config.env u = (resume Config.env s).withPort u.werr u.rdata := hu ▸ resume_eq_withPort Config.env u
  cases ev with
  | read a => exact resume_withPort Config.env s s.werr _
  | write a v => rw [eventStep, hostWrite_isBusy h]; exact resume_withPort Config.env s true s.rdata
  | core => exact same (resume_coreStep Config.env s)
  | nvAnswer => exact same (resume_agentAnswer Config.env true s)
  | gcmAnswer => exact same (resume_agentAnswer Config.env false s)
  | run | reset | provision => exact same rfl

/-- Events that complete the running command end where running the rest of it at once does. -/
theorem interleave_eq_resume {s t : State} {evs : List Event} (h : interleave s evs = some t) (ht : t.isBusy = false) :
    t = (resume Config.env s).withPort (s.werr || evs.any Event.isWrite) t.rdata := by
  induction evs generalizing s with
  | nil =>
    obtain rfl : s = t := Option.some.inj h
    rw [resume_idle _ (phase_of_not_isBusy ht), List.any_nil, Bool.or_false]
    rfl
  | cons ev evs ih =>
    unfold interleave at h
    split_ifs at h with hb
    have hrest := ih h
    rw [resume_eventStep hb, eventStep_werr hb, Bool.or_assoc] at hrest
    rwa [List.any_cons]

theorem opcodeRule_encodeByte (e : Env) (i : Instr) : opcodeRule e (encodeByte i) = ruleOf e i := by
  rw [opcodeRule, decodeByte_encodeByte]

/-- Settles O58: no event while BUSY changes what the rest of the command ends in. That the events are the command's own is not
needed, since `eventStep` does nothing on the others. -/
theorem interleavingsAgreeWithBigStep : Obligations.InterleavingsAgreeWithBigStep := by
  intro i s evs t hp _ h ht
  have hend := interleave_eq_resume h ht
  rw [resume_unasked _ hp, opcodeRule_encodeByte, List.drop_zero] at hend
  have hwerr : t.werr = (s.werr || evs.any Event.isWrite) := congrArg State.werr hend
  exact ⟨_, exec_eq_execWith i s, hwerr ▸ hend, hwerr⟩

/-! The start and the end of a command -/

theorem illegalOpcode_iff (op : Byte) : illegalOpcode op = true ↔ ∀ i : Instr, op ≠ encodeByte i := by
  constructor
  · rintro h i rfl
    cases i <;> cases h
  · intro h
    have hrows : ∀ b : Byte, illegalOpcode b = true ∨ ∃ r ∈ opcodeRows, b = r.pattern := by decide
    obtain ho | ⟨r, hr, hb⟩ := hrows op
    · exact ho
    · exact absurd (hb.trans (opcodeRows_spec r hr).2) (h r.instr)

theorem decodeByte_of_illegalOpcode {op : Byte} (h : illegalOpcode op = true) : ∃ r, decodeByte op = .error r := by
  cases hd : decodeByte op with
  | error r => exact ⟨r, rfl⟩
  | ok i => exact absurd (eq_encodeByte_of_decodeByte hd) ((illegalOpcode_iff op).1 h i)

theorem hostWrite_cmd {s : State} (h : s.phase = .idle) (v : Byte) : s.hostWrite Addr.cmd v = s.startCommand v :=
  hostWrite_idle h Addr.cmd v

/-- Settles O3: an illegal opcode's rule is one step, which completes with `IllegalCommand`. -/
theorem illegalOpcodeChangesNothing : Obligations.IllegalOpcodeChangesNothing := by
  refine ⟨rfl, illegalOpcode_iff, fun op s ho hp hin => ?_⟩
  obtain ⟨r, hr⟩ := decodeByte_of_illegalOpcode ho
  rw [hostWrite_cmd hp]
  simp only [step, stepWith, State.startCommand_inputs, hin, runCommand, State.startCommand_phase, hr]
  rfl

/-- Settles O7: the event is the write of `CMD`, which starts the command. -/
theorem cmdWriteStartsCommand : Obligations.CmdWriteStartsCommand := by
  intro s v rest hp hin
  simp only [step, stepWith, hin, handleEvent]
  exact congrArg Host.Outcome.next (hostWrite_cmd (s := { s with inputs := rest }) hp v)

/-- Settles O8: a rule ends in a completion, which keeps what its steps do not work on. -/
theorem everyCommandCompletes : Obligations.EveryCommandCompletes := by
  intro i s
  refine ⟨_, exec_eq_execWith i s, ?_⟩
  have hstg : (runSteps Config.env (ruleOf Config.env i) s).blk.stg = Staging.empty := by
    obtain ⟨s', code, b, h⟩ := runSteps_completes Config.env (ruleOf Config.env i) s
    rw [h]
    rfl
  rw [runSteps_eq_endedAs] at hstg ⊢
  exact ⟨rfl, rfl, hstg, rfl, rfl, rfl, rfl, rfl⟩

/-- Settles O22: the one step of NOP's rule finishes with the block as it was. -/
theorem nopOnlyCompletes : Obligations.NopOnlyCompletes :=
  ⟨rfl, fun _ => rfl⟩

/-! How few events complete a command -/

/-- At most `m` Core steps and agents' answers complete the running command. -/
def CompletesWithin (m : Nat) (s : State) : Prop :=
  ∃ evs t, evs.length ≤ m ∧ (∀ ev ∈ evs, ev = .core ∨ ev = .nvAnswer ∨ ev = .gcmAnswer) ∧
    interleave s evs = some t ∧ t.isBusy = false

theorem completesWithin_of_idle (m : Nat) {s : State} (h : s.phase = .idle) : CompletesWithin m s :=
  ⟨[], s, m.zero_le, by simp, rfl, isBusy_idle h⟩

section
variable {s : State} {op : Byte} {n m : Nat}

theorem completesWithin_of_event {ev : Event} (hb : s.isBusy = true) (hev : ev = .core ∨ ev = .nvAnswer ∨ ev = .gcmAnswer)
    (h : CompletesWithin m (eventStep ev s)) : CompletesWithin (m + 1) s := by
  obtain ⟨evs, t, hlen, hevs, hi, ht⟩ := h
  exact ⟨ev :: evs, t, Nat.succ_le_succ hlen, List.forall_mem_cons.2 ⟨hev, hevs⟩, (if_pos hb).trans hi, ht⟩

theorem completesWithin_of_coreStep (hp : s.phase = .busy op n none)
    (h : CompletesWithin m (stepRule (opcodeRule Config.env op) op n s)) : CompletesWithin (m + 1) s := by
  refine completesWithin_of_event (isBusy_busy hp) (.inl rfl) ?_
  rwa [eventStep, coreStep, hp]

/-- An outstanding request takes one answer, of the agent it was issued to. -/
theorem completesWithin_of_answer {q : Request} (hp : s.phase = .busy op n (some q))
    (h : ∀ u : State, u.phase = .busy op n none → CompletesWithin m u) : CompletesWithin (m + 1) s := by
  have hanswer : CompletesWithin m (agentAnswer Config.env q.isNv s) := by
    rw [agentAnswer, hp]
    exact h _ (by simp)
  cases hq : q.isNv <;> rw [hq] at hanswer
  case true => exact completesWithin_of_event (isBusy_busy hp) (.inr (.inl rfl)) hanswer
  case false => exact completesWithin_of_event (isBusy_busy hp) (.inr (.inr rfl)) hanswer

/-- A step takes two events at most: itself, and the answer of the request it issues. -/
theorem completesWithin_of_next (h : ∀ u : State, u.phase = .busy op (n + 1) none → CompletesWithin m u)
    (hp : s.phase = .busy op n none) : CompletesWithin (m + 2) s := by
  refine completesWithin_of_coreStep hp ?_
  obtain ⟨c, b, hs⟩ | ⟨f, b, _, _, hs⟩ | ⟨f, q, b, _, _, hs⟩ := stepRule_cases (opcodeRule Config.env op) op n s
  · rw [hs]; exact completesWithin_of_idle _ rfl
  · rw [hs]
    obtain ⟨evs, t, hlen, hrest⟩ := h { s with blk := b, phase := .busy op (n + 1) none } rfl
    exact ⟨evs, t, Nat.le_succ_of_le hlen, hrest⟩
  · rw [hs]; exact completesWithin_of_answer rfl h

/-- The last Core step of a command: the rule has no step left, or its step finishes. -/
theorem completesWithin_of_last (h : ∀ f ∈ (opcodeRule Config.env op)[n]?, ∀ b, ∃ c b', f b = .finish c b')
    (hp : s.phase = .busy op n none) : CompletesWithin 1 s := by
  refine completesWithin_of_coreStep hp (completesWithin_of_idle 0 ?_)
  unfold stepRule
  cases hf : (opcodeRule Config.env op)[n]? with
  | none => rfl
  | some f =>
    obtain ⟨c, b', hb⟩ := h f hf s.blk
    simp [hb]

end

/-- A third step, where a rule has one, finishes the command. -/
theorem ruleOf_third_step_finishes (e : Env) (i : Instr) : ∀ f ∈ (ruleOf e i)[2]?, ∀ b, ∃ c b', f b = .finish c b' := by
  rintro f hf b
  cases i
  case assocOpen => cases hf; exact ⟨_, _, rfl⟩
  case secEncode =>
    cases hf
    unfold secEncodeFinish
    dsimp only
    split_ifs <;> exact ⟨_, _, rfl⟩
  case secDecode => cases hf; exact ⟨_, _, rfl⟩
  all_goals cases hf

/-- Settles O59: the first two steps take two events each at most, and the third finishes the command. -/
theorem commandsCompleteInBoundedSteps : Obligations.CommandsCompleteInBoundedSteps := by
  intro i s hp
  have hlast (u : State) : u.phase = .busy (encodeByte i) 2 none → CompletesWithin 1 u := by
    refine completesWithin_of_last ?_
    rw [opcodeRule_encodeByte]
    exact ruleOf_third_step_finishes Config.env i
  exact completesWithin_of_next (fun _ => completesWithin_of_next hlast) hp

end Sys2Proof.Machine
end

section
/-! SUPPORT. The interrupt output after a completion and after the host's writes (60_exceptions R340, O18); that every step answers
a next state, and that an idle machine waits (60_exceptions R335, 00_scope R7, O5). -/

namespace Sys2Proof.Machine

/-! The interrupt output -/

theorem State.irq_iff (s : State) : s.irq = true ↔ s.done = true ∧ s.blk.ie = true := Bool.and_eq_true_iff

theorem State.irq_of_done {s : State} (h : s.done = true) : s.irq = s.blk.ie := by rw [State.irq, h, Bool.true_and]

theorem State.irq_of_not_done {s : State} (h : s.done = false) : s.irq = false := by rw [State.irq, h, Bool.false_and]

/-! After a completion -/

theorem runSteps_done (e : Env) (rule : Rule) (s : State) : (runSteps e rule s).done = true := by
  rw [runSteps_eq_endedAs]
  rfl

/-- The enable of the interrupt stands in no command's writes column (30_encoding R121). -/
theorem runSteps_ruleOf_ie (e : Env) (i : Instr) (s : State) : (runSteps e (ruleOf e i) s).blk.ie = s.blk.ie :=
  (runSteps_ruleOf_frame e i s).blk.field Block.ie

theorem runSteps_opcodeRule_ie (e : Env) (op : Byte) (s : State) :
    (runSteps e (opcodeRule e op) s).blk.ie = s.blk.ie := by
  unfold opcodeRule
  split
  next i _ => exact runSteps_ruleOf_ie e i s
  next => rfl

theorem runSteps_opcodeRule_irq (e : Env) (op : Byte) (s : State) : (runSteps e (opcodeRule e op) s).irq = s.blk.ie :=
  (State.irq_of_done (runSteps_done e _ s)).trans (runSteps_opcodeRule_ie e op s)

theorem exec_irq (i : Instr) (s : State) : ∃ t, exec i s = .next t ∧ t.irq = s.blk.ie := by
  have hirq := runSteps_opcodeRule_irq Config.env (encodeByte i) s
  rw [opcodeRule_encodeByte] at hirq
  exact ⟨_, exec_eq_execWith i s, hirq⟩

/-! After a write while IDLE -/

/-- A write to `CTRL` while IDLE (10_state R37). -/
theorem hostWrite_ctrl {s : State} (h : s.phase = .idle) (v : Byte) :
    s.hostWrite 0x203 v = { s with blk := { s.blk with ie := v.getLsbD 0, pad31 := v.getLsbD 1 } } := by
  rw [hostWrite_idle h]
  rfl

section
variable {s : State} (h : s.phase = .idle)
include h

theorem hostWrite_cmd_irq (v : Byte) : (s.hostWrite 0x200 v).irq = false :=
  State.irq_of_not_done (congrArg State.done (hostWrite_cmd h v))

theorem hostWrite_status_irq {v : Byte} (hv : v.getLsbD 1 = true) : (s.hostWrite 0x201 v).irq = false := by
  rw [hostWrite_status h]
  exact State.irq_of_not_done (by simp [hv])

theorem hostWrite_ctrl_irq (v : Byte) : (s.hostWrite 0x203 v).irq = (s.done && v.getLsbD 0) := by
  rw [hostWrite_ctrl h]
  rfl

end

/-- Settles O18: a completion sets `DONE` and keeps `IE`; each write while IDLE changes one of the two. -/
theorem interruptFollowsDoneAndEnable : Obligations.InterruptFollowsDoneAndEnable := by
  refine ⟨State.irq_iff, exec_irq, runSteps_opcodeRule_irq Config.env, fun s v h => hostWrite_cmd_irq h v,
    fun s v h => hostWrite_status_irq h, fun s v h hv => ?_, fun s v h hd hv => ?_, rfl⟩
  · rw [hostWrite_ctrl_irq h, hv, Bool.and_false]
  · rw [hostWrite_ctrl_irq h, hd, hv, Bool.and_self]

/-! Every step answers a next state -/

theorem runCommand_next (s : State) : ∃ t, runCommand Config.env exec s = .next t := by
  unfold runCommand
  split
  next op _ =>
    split
    next i _ => exact ⟨_, exec_eq_execWith i s⟩
    next => exact ⟨_, rfl⟩
  next => exact ⟨_, rfl⟩

theorem handleEvent_next (ev : Event) (s : State) : ∃ t, handleEvent Config.env exec ev s = .next t := by
  cases ev with
  | run => exact runCommand_next s
  | read | write | core | nvAnswer | gcmAnswer | reset | provision => exact ⟨_, rfl⟩

theorem step_noEvent {s : State} (h : s.inputs = []) : step s = runCommand Config.env exec s := by
  simp only [step, stepWith, h]

theorem step_event {s : State} {ev : Event} {rest : List Event} (h : s.inputs = ev :: rest) :
    step s = handleEvent Config.env exec ev { s with inputs := rest } := by
  simp only [step, stepWith, h]

theorem step_next (s : State) : ∃ t, step s = .next t := by
  cases hin : s.inputs with
  | nil => rw [step_noEvent hin]; exact runCommand_next s
  | cons ev rest => rw [step_event hin]; exact handleEvent_next ev { s with inputs := rest }

/-! An idle machine -/

section
variable (e : Env) {s : State} (h : s.phase = .idle)
include h

theorem runCommand_idle (ex : Instr → State → Host.Outcome State Fault Refusal) : runCommand e ex s = .next s := by
  simp [runCommand, h, resume_idle]

theorem coreStep_idle : coreStep e s = s := by simp [coreStep, h]

theorem agentAnswer_idle (nv : Bool) : agentAnswer e nv s = s := by simp [agentAnswer, h]

theorem handleEvent_idle (ex : Instr → State → Host.Outcome State Fault Refusal) {ev : Event}
    (hev : ev = .core ∨ ev = .nvAnswer ∨ ev = .gcmAnswer ∨ ev = .run) : handleEvent e ex ev s = .next s := by
  obtain rfl | rfl | rfl | rfl := hev
  · exact congrArg Host.Outcome.next (coreStep_idle e h)
  · exact congrArg Host.Outcome.next (agentAnswer_idle e h true)
  · exact congrArg Host.Outcome.next (agentAnswer_idle e h false)
  · exact runCommand_idle e h ex

end

/-- Settles O5: while IDLE no command is running, so Core and the agents have nothing to move. -/
theorem machineNeverStopsAndIdleWaits : Obligations.MachineNeverStopsAndIdleWaits :=
  ⟨step_next, fun s h =>
    ⟨fun hin => (step_noEvent hin).trans (runCommand_idle Config.env h exec), fun _ rest hev hin =>
      (step_event hin).trans (handleEvent_idle Config.env (s := { s with inputs := rest }) h exec hev)⟩⟩

end Sys2Proof.Machine
end

section
/-! SUPPORT. Reset: what the reset event leaves (70_reset_and_hazards R370, O20), and the NV records a reset leaves at any point of
a running command (70_reset_and_hazards R380, O21). No command issues two `NvWrite`s, so its records are the old ones until that
one write lands, and from then on the completed command's. -/

namespace Sys2Proof.Machine

/-! What a reset leaves of the NV records -/

theorem powerOn_nv_of_nvWrite {s : State} {op : Byte} {n k : Nat} {rec : List Byte}
    (h : s.phase = .busy op n (some (.nvWrite k rec))) (landed : Bool) :
    (s.powerOn landed).nv = if landed then nvStore s.nv k rec else s.nv := by
  simp only [State.powerOn, h]

theorem powerOn_nv_of_no_nvWrite {s : State}
    (h : ∀ (op : Byte) (n k : Nat) (rec : List Byte), s.phase ≠ .busy op n (some (.nvWrite k rec))) (landed : Bool) :
    (s.powerOn landed).nv = s.nv := by
  unfold State.powerOn
  dsimp only
  split
  next op n k rec hp => exact absurd hp (h op n k rec)
  next => rfl

/-- Settles O20: the reset event is `powerOn`, whose NV records are the ones above. -/
theorem resetEventRestoresResetState : Obligations.ResetEventRestoresResetState := by
  intro s landed rest hin
  exact ⟨_, step_event hin, rfl, fun h => powerOn_nv_of_no_nvWrite (s := { s with inputs := rest }) h landed,
    fun op n k rec h => powerOn_nv_of_nvWrite (s := { s with inputs := rest }) h landed⟩

/-! No rule writes the NV records twice -/

/-- The step issues no `NvWrite`, whatever the block. -/
def NvQuiet (f : Block → Turn) : Prop := ∀ b k rec b', f b ≠ .ask (.nvWrite k rec) b'

/-- A step that always finishes issues no request. -/
theorem nvQuiet_of_finish {f : Block → Turn} (h : ∀ b, ∃ c b', f b = .finish c b') : NvQuiet f := fun b _ _ _ hf => by
  obtain ⟨_, _, he⟩ := h b
  cases he.symm.trans hf

theorem openRead_nvQuiet : NvQuiet openRead := fun b _ _ _ hf => by
  obtain ⟨_, he⟩ | ⟨_, he⟩ := openRead_cases b <;> cases he.symm.trans hf

theorem openDone_nvQuiet : NvQuiet openDone := nvQuiet_of_finish fun _ => ⟨_, _, rfl⟩

theorem secEncodeSeal_nvQuiet : NvQuiet secEncodeSeal := nofun

theorem secEncodeFinish_nvQuiet : NvQuiet secEncodeFinish := nvQuiet_of_finish fun b => by
  obtain ⟨c, b', he, _⟩ := secEncodeFinish_cases b
  exact ⟨c, b', he⟩

theorem secDecodeStart_nvQuiet (e : Env) : NvQuiet (secDecodeStart e) := fun b k rec _ hf => by
  obtain ⟨_, he⟩ | ⟨_, _, _, hq, he⟩ := secDecodeStart_cases e b
  · cases he.symm.trans hf
  · cases he.symm.trans hf
    exact hq k rec rfl

theorem secDecodeFinish_nvQuiet (e : Env) : NvQuiet (secDecodeFinish e) := nvQuiet_of_finish fun _ => ⟨_, _, rfl⟩

/-- Of any two steps of the rule at most one issues an `NvWrite`. -/
def WritesNvOnce (rule : Rule) : Prop := rule.Pairwise fun f g => NvQuiet f ∨ NvQuiet g

theorem writesNvOnce_singleton (f : Block → Turn) : WritesNvOnce [f] := List.pairwise_singleton _ f

theorem ruleOf_writesNvOnce (e : Env) (i : Instr) : WritesNvOnce (ruleOf e i) := by
  cases i
  case assocOpen =>
    simp [WritesNvOnce, ruleOf, assocOpenRule, openRead_nvQuiet, openDone_nvQuiet]
  case assocRekey => simp [WritesNvOnce, ruleOf, assocRekeyRule, openDone_nvQuiet]
  case secEncode =>
    simp [WritesNvOnce, ruleOf, secEncodeRule, secEncodeSeal_nvQuiet, secEncodeFinish_nvQuiet]
  case secDecode =>
    simp [WritesNvOnce, ruleOf, secDecodeRule, secDecodeStart_nvQuiet, secDecodeFinish_nvQuiet]
  all_goals exact writesNvOnce_singleton _

theorem opcodeRule_writesNvOnce (e : Env) (op : Byte) : WritesNvOnce (opcodeRule e op) := by
  unfold opcodeRule
  split
  next i _ => exact ruleOf_writesNvOnce e i
  next => exact writesNvOnce_singleton _

/-- From step number `n` on, no step of the opcode's rule issues an `NvWrite`. -/
def RestNvQuiet (e : Env) (op : Byte) (n : Nat) : Prop := ∀ f ∈ (opcodeRule e op).drop n, NvQuiet f

section
variable {e : Env} {op : Byte} {n : Nat}

theorem RestNvQuiet.succ (h : RestNvQuiet e op n) : RestNvQuiet e op (n + 1) := fun f hf => by
  rw [← List.drop_drop] at hf
  exact h f (List.mem_of_mem_drop hf)

/-- A step that issues an `NvWrite` is the last one that does. -/
theorem restNvQuiet_after_nvWrite {f : Block → Turn} {b b' : Block} {k : Nat} {rec : List Byte}
    (hf : (opcodeRule e op)[n]? = some f) (ht : f b = .ask (.nvWrite k rec) b') : RestNvQuiet e op (n + 1) := fun g hg => by
  obtain ⟨hn, rfl⟩ := List.getElem?_eq_some_iff.1 hf
  have honce : WritesNvOnce ((opcodeRule e op).drop n) := (opcodeRule_writesNvOnce e op).sublist (List.drop_sublist n _)
  rw [List.drop_eq_getElem_cons hn] at honce
  exact (List.rel_of_pairwise_cons honce hg).resolve_left fun hquiet => hquiet b k rec b' ht

/-- The next step is one of the steps left. -/
theorem RestNvQuiet.not_nvWrite (h : RestNvQuiet e op n) {f : Block → Turn} {b b' : Block} {k : Nat} {rec : List Byte}
    (hf : (opcodeRule e op)[n]? = some f) : f b ≠ .ask (.nvWrite k rec) b' := by
  obtain ⟨hn, rfl⟩ := List.getElem?_eq_some_iff.1 hf
  exact h _ (List.drop_eq_getElem_cons hn ▸ List.mem_cons_self) b k rec b'

end

theorem answer_nv_of_not_nvWrite (e : Env) (s : State) {q : Request} (h : ∀ k rec, q ≠ .nvWrite k rec) :
    (answer e s q).nv = s.nv := by
  obtain ⟨k, rec, hq, _⟩ | ⟨_, _, _, ha⟩ := answer_cases e s q
  · exact absurd hq (h k rec)
  · rw [ha]

/-- Steps that issue no `NvWrite` leave the NV records. -/
theorem runSteps_nv_of_nvQuiet (e : Env) {rule : Rule} (h : ∀ f ∈ rule, NvQuiet f) (s : State) :
    (runSteps e rule s).nv = s.nv := by
  induction rule generalizing s with
  | nil => rfl
  | cons f rest ih =>
    have hrest := ih fun g hg => h g (.tail _ hg)
    cases hf : f s.blk with
    | finish c b => rw [runSteps_finish e hf]; rfl
    | go b => rw [runSteps_go e hf, hrest]
    | ask q b =>
      rw [runSteps_ask e hf, hrest]
      refine answer_nv_of_not_nvWrite e (s.issue q b) ?_
      rintro k rec rfl
      exact h f (.head _) s.blk k rec b hf

/-! How far a running command is with its NV write -/

/-- A command that found the NV records `old` is idle again; or its one `NvWrite` is outstanding; or none is outstanding, since that
write is still to come, if it comes at all, or has landed. -/
inductive State.NvStage (e : Env) (old : Memory) (s : State) : Prop
  | idle (hp : s.phase = .idle)
  | outstanding {op : Byte} {n k : Nat} {rec : List Byte} (hp : s.phase = .busy op n (some (.nvWrite k rec)))
      (hnv : s.nv = old) (hrest : RestNvQuiet e op n)
  | notOutstanding {op : Byte} {n : Nat} {req : Option Request} (hp : s.phase = .busy op n req)
      (hreq : ∀ k rec, req ≠ some (.nvWrite k rec)) (h : s.nv = old ∨ RestNvQuiet e op n)

theorem coreStep_cases (e : Env) (s : State) : coreStep e s = s ∨
    ∃ op n, s.phase = .busy op n none ∧ coreStep e s = stepRule (opcodeRule e op) op n s := by
  unfold coreStep
  split
  next op n hp => exact .inr ⟨op, n, hp, rfl⟩
  next => exact .inl rfl

theorem agentAnswer_cases (e : Env) (nv : Bool) (s : State) : agentAnswer e nv s = s ∨
    ∃ op n q, s.phase = .busy op n (some q) ∧
      agentAnswer e nv s = { answer e s q with phase := .busy op n none } := by
  unfold agentAnswer
  split
  next op n q hp =>
    split_ifs
    · exact .inr ⟨op, n, q, hp, rfl⟩
    · exact .inl rfl
  next => exact .inl rfl

section
variable {e : Env} {old : Memory} {s : State} (hs : s.NvStage e old)
include hs

/-- With no `NvWrite` outstanding the records are the old ones, or no step left writes them. -/
theorem State.NvStage.old_or_restNvQuiet {op : Byte} {n : Nat} {req : Option Request} (hp : s.phase = .busy op n req) :
    s.nv = old ∨ RestNvQuiet e op n := by
  cases hs with
  | idle hp' => cases hp'.symm.trans hp
  | outstanding _ hnv _ => exact .inl hnv
  | notOutstanding hp' _ h => cases hp'.symm.trans hp; exact h

theorem stepRule_nvStage {op : Byte} {n : Nat} (hp : s.phase = .busy op n none) :
    (stepRule (opcodeRule e op) op n s).NvStage e old := by
  have hold := hs.old_or_restNvQuiet hp
  obtain ⟨c, b, he⟩ | ⟨f, b, _, _, he⟩ | ⟨f, q, b, hf, ht, he⟩ := stepRule_cases (opcodeRule e op) op n s
  · rw [he]; exact .idle rfl
  · rw [he]; exact .notOutstanding rfl nofun (hold.imp_right .succ)
  · rw [he]
    by_cases hq : ∃ k rec, q = .nvWrite k rec
    · obtain ⟨k, rec, rfl⟩ := hq
      exact .outstanding rfl (hold.resolve_right fun hrest => hrest.not_nvWrite hf ht) (restNvQuiet_after_nvWrite hf ht)
    · exact .notOutstanding rfl (fun k rec h => hq ⟨k, rec, Option.some.inj h⟩) (hold.imp_right .succ)

theorem coreStep_nvStage : (coreStep e s).NvStage e old := by
  obtain he | ⟨op, n, hp, he⟩ := coreStep_cases e s
  · rwa [he]
  · rw [he]; exact stepRule_nvStage hs hp

theorem agentAnswer_nvStage (nv : Bool) : (agentAnswer e nv s).NvStage e old := by
  obtain he | ⟨op, n, q, hp, he⟩ := agentAnswer_cases e nv s
  · rwa [he]
  · rw [he]
    refine .notOutstanding rfl nofun ?_
    cases hs with
    | idle hp' => cases hp'.symm.trans hp
    | outstanding hp' _ hrest => cases hp'.symm.trans hp; exact .inr hrest
    | notOutstanding hp' hreq h =>
      cases hp'.symm.trans hp
      have hnv := answer_nv_of_not_nvWrite e s fun k rec hq => hreq k rec (congrArg some hq)
      exact h.imp_left hnv.trans

/-- The Host's accesses to a busy block are not the command's. -/
theorem State.NvStage.withPort (werr : Bool) (rdata : Byte) : (s.withPort werr rdata).NvStage e old := by
  cases hs with
  | idle hp => exact .idle hp
  | outstanding hp hnv hrest => exact .outstanding hp hnv hrest
  | notOutstanding hp hreq h => exact .notOutstanding hp hreq h

end

theorem eventStep_nvStage {old : Memory} {s : State} (hb : s.isBusy = true) (hs : s.NvStage Config.env old) (ev : Event) :
    (eventStep ev s).NvStage Config.env old := by
  cases ev with
  | read a => exact hs.withPort s.werr _
  | write a v => rw [eventStep, hostWrite_isBusy hb]; exact hs.withPort true s.rdata
  | core => exact coreStep_nvStage hs
  | nvAnswer => exact agentAnswer_nvStage hs true
  | gcmAnswer => exact agentAnswer_nvStage hs false
  | run | reset | provision => exact hs

/-- The NV records a reset leaves while the command is running, by the stage of its write. -/
theorem State.NvStage.powerOn_nv {e : Env} {old : Memory} {s : State} (hs : s.NvStage e old) (hb : s.isBusy = true)
    (landed : Bool) : (s.powerOn landed).nv = old ∨ (s.powerOn landed).nv = (resume e s).nv := by
  cases hs with
  | idle hp => cases (isBusy_idle hp).symm.trans hb
  | outstanding hp hnv hrest =>
    rw [powerOn_nv_of_nvWrite hp]
    cases landed with
    | false => exact .inl hnv
    | true => rw [resume_asked e hp, runSteps_nv_of_nvQuiet e hrest]; exact .inr rfl
  | @notOutstanding op n req hp hreq h =>
    have hnone : (s.powerOn landed).nv = s.nv := by
      refine powerOn_nv_of_no_nvWrite (fun _ _ k rec hp' => ?_) landed
      cases hp.symm.trans hp'
      exact hreq k rec rfl
    rw [hnone]
    refine h.imp_right fun hrest => ?_
    cases req with
    | none => rw [resume_unasked e hp, runSteps_nv_of_nvQuiet e hrest]
    | some q =>
      rw [resume_asked e hp, runSteps_nv_of_nvQuiet e hrest]
      exact (answer_nv_of_not_nvWrite e s fun k rec hq => hreq k rec (congrArg some hq)).symm

/-! Along an interleaving -/

/-- What every event of a running command keeps holds after an interleaving. -/
theorem interleave_invariant {P : State → Prop} (hP : ∀ s ev, s.isBusy = true → P s → P (eventStep ev s)) {s u : State}
    {evs : List Event} (h : interleave s evs = some u) (hs : P s) : P u := by
  induction evs generalizing s with
  | nil => exact Option.some.inj h ▸ hs
  | cons ev evs ih =>
    unfold interleave at h
    split_ifs at h with hb
    exact ih h (hP s ev hb hs)

/-- No event changes the NV records that the rest of the command ends in. -/
theorem interleave_resume_nv {s u : State} {evs : List Event} (h : interleave s evs = some u) :
    (resume Config.env u).nv = (resume Config.env s).nv :=
  interleave_invariant (P := fun t => (resume Config.env t).nv = (resume Config.env s).nv)
    (fun _ ev hb ht => (congrArg State.nv (resume_eventStep hb ev)).trans ht) h rfl

theorem interleave_nvStage {old : Memory} {s u : State} {evs : List Event} (h : interleave s evs = some u)
    (hs : s.NvStage Config.env old) : u.NvStage Config.env old :=
  interleave_invariant (fun _ ev hb ht => eventStep_nvStage hb ht ev) h hs

/-- Settles O21: the command's write is to come, outstanding or landed, and its end does not depend on the interleaving. That the
events are the command's own is not needed, since `eventStep` does nothing on the others. -/
theorem resetDuringCommandLeavesOldOrNewRecords : Obligations.ResetDuringCommandLeavesOldOrNewRecords := by
  intro i s evs u landed hp _ h hb
  have hstage : u.NvStage Config.env s.nv := interleave_nvStage h (.notOutstanding hp nofun (.inl rfl))
  have hend := interleave_resume_nv h
  rw [resume_unasked _ hp, opcodeRule_encodeByte, List.drop_zero] at hend
  exact ⟨_, exec_eq_execWith i s, hend ▸ hstage.powerOn_nv hb landed⟩

end Sys2Proof.Machine
end
